-- ==== Sys2Proof/Word.lean ====
section
/-! DEFINITION. The machine's word types (10_state.md R30, 30_encoding.md R113). Every value is unsigned (00_scope.md R8). -/

namespace Sys2Proof

/-- A byte: a general register, a timer, a flag register, a memory byte (R31, R38, R39). -/
abbrev Byte := BitVec 8

/-- A 16-bit word: an opcode, `I`, `pc`, a stack entry (R34, R35, R36). -/
abbrev Word := BitVec 16

/-- The immediate `nnn` (30_encoding.md R113, R117). -/
abbrev Addr12 := BitVec 12

/-- A 4-bit field: a register index `x` or `y`, a count `n`, `sp`, `planeMask` (R37, R49, R113). -/
abbrev Nibble := BitVec 4

/-- One display plane: bit `i` is cell `i` of the flat bitmap (10_state.md R46, R51). Only the first `W*H` cells exist;
the others are 0 in every state `Initialise()` leads to (DESIGN CHOICE, log 13). -/
abbrev Plane := BitVec 8192

end Sys2Proof
end

