-- ==== Sys2Proof/Config.lean ====
section
/-! DEFINITION. The configuration of 00_scope.md R6, and the free values: constants with no body, which nothing can evaluate. -/

namespace Sys2Proof

/-- `VARIANT` (00_scope.md R2). -/
inductive Variant where
  | chip8
  | schip
  | xochip
  deriving DecidableEq, Repr, Inhabited

/-- `JUMP_QUIRK` (40_control_flow.md R209). -/
inductive JumpQuirk where
  | v0
  | vx
  deriving DecidableEq, Repr, Inhabited

/-- `FLAG_WRITE_ORDER` (41_register_ops.md R251). -/
inductive FlagWriteOrder where
  | flagFirst
  | flagLast
  deriving DecidableEq, Repr, Inhabited

/-- `ADDRESS_WRAP` (20_memory.md R82). -/
inductive AddressWrap where
  | mask
  | clamp
  deriving DecidableEq, Repr, Inhabited

/-- The configuration arguments of 00_scope.md R6. `MEMORY_SIZE` and `NUM_PLANES` are functions of the variant and
`LOAD_ADDRESS` is one number (Machine/Parameters.lean). No call changes a configuration (R551). -/
structure Config where
  variant           : Variant
  compatibilityMode : Bool
  allowMisaligned   : Bool
  jumpQuirk         : JumpQuirk
  flagWriteOrder    : FlagWriteOrder
  addressWrap       : AddressWrap
  drawOriginWrap    : Bool
  lowFontBase       : Nat
  highFontBase      : Nat
  lowFont           : List Byte
  highFont          : List Byte
  /-- Host-side: no rule of the block reads it (70_reset_and_hazards.md R564). -/
  cyclesPerFrame    : Nat
  deriving DecidableEq, Repr

/-- FREE VALUE: the `t`-th draw answered by the random port (10_state.md R65; log 6). -/
opaque Config.freeRandomByte : Nat → Byte

/-- FREE VALUE: the `t`-th draw answered by `isKeyPressed(k)`, `k` in 0..15 (10_state.md R66; log 7). -/
opaque Config.freeKeyPressed : Nat → Nibble → Bool

/-- FREE VALUE: the `t`-th draw for a key above 15, outside the port's domain (43_timer_key_ops.md R353; log 7). -/
opaque Config.freeKeyOutOfRange : Nat → Byte → Bool

/-- FREE VALUE: the `t`-th draw answered by `checkKeyPress()`: pressed, key (10_state.md R66; log 7). -/
opaque Config.freeKeyPoll : Nat → Bool × Nibble

/-- OPEN PARAMETER `JUMP_QUIRK` of the machine `State.reset` describes (92_eei_decisions.md D11; log 4). -/
opaque Config.openJumpQuirk : JumpQuirk

/-- OPEN PARAMETER `HIGH_FONT`: its `k`-th byte, for the machine `State.reset` describes (92 D18; log 4). -/
opaque Config.openHighFontByte : Nat → Byte

/-- OPEN PARAMETER `CYCLES_PER_FRAME` of the machine `State.reset` describes (92 D47; log 4). -/
opaque Config.openCyclesPerFrame : Nat

end Sys2Proof
end

