-- ==== Sys2Proof/Machine/Parameters.lean ====
section
/-! DEFINITION. What a configuration determines (00_scope.md R6): memory size, planes, the reset contents of memory, the legal
font placements; and the configuration of the machine `State.reset` describes (log 2, 3, 4). -/

namespace Sys2Proof.Machine

/-- `LOAD_ADDRESS`, where programs are loaded and started (20_memory.md R89). -/
def loadAddress : Nat := 0x200

/-- `MEMORY_SIZE` is fixed by the variant (20_memory.md R80; 92 D48). -/
def memorySize (c : Config) : Nat :=
  match c.variant with
  | .chip8 => 4096
  | .schip => 4096
  | .xochip => 65536

/-- `NUM_PLANES` (10_state.md R47). -/
def numPlanes (c : Config) : Nat :=
  match c.variant with
  | .chip8 => 1
  | .schip => 1
  | .xochip => 2

/-- The low-resolution font's length: 16 glyphs of 5 bytes (70_reset_and_hazards.md R552). -/
def lowFontLength : Nat := 80

/-- The high-resolution font's length: 16 glyphs of 10 bytes (R552). -/
def highFontLength : Nat := 160

/-- What memory holds at `a` after `Initialise()`: 0, but for the two font tables, the high font copied after the low one
(10_state.md R52; 70_reset_and_hazards.md R550, R552). An unlisted address of the memory list reads as this (log 14). -/
def resetByte (c : Config) (a : Nat) : Byte :=
  if c.highFontBase ≤ a ∧ a < c.highFontBase + highFontLength then c.highFont.getD (a - c.highFontBase) 0
  else if c.lowFontBase ≤ a ∧ a < c.lowFontBase + lowFontLength then c.lowFont.getD (a - c.lowFontBase) 0
  else 0

/-- A font placement the model requires: both fonts of their length, below `LOAD_ADDRESS`, not overlapping (R552). -/
def configWf (c : Config) : Bool :=
  c.lowFont.length == lowFontLength && c.highFont.length == highFontLength
    && decide (c.lowFontBase + lowFontLength ≤ loadAddress) && decide (c.highFontBase + highFontLength ≤ loadAddress)
    && (decide (c.lowFontBase + lowFontLength ≤ c.highFontBase) || decide (c.highFontBase + highFontLength ≤ c.lowFontBase))

/-- `LOW_FONT`, digits 0 to 7 (R553). -/
def lowFontDigits : List Byte :=
  [ 0xF0, 0x90, 0x90, 0x90, 0xF0, 0x20, 0x60, 0x20, 0x20, 0x70, 0xF0, 0x10, 0xF0, 0x80, 0xF0, 0xF0, 0x10, 0xF0, 0x10, 0xF0,
    0x90, 0x90, 0xF0, 0x10, 0x10, 0xF0, 0x80, 0xF0, 0x10, 0xF0, 0xF0, 0x80, 0xF0, 0x90, 0xF0, 0xF0, 0x10, 0x20, 0x40, 0x40 ]

/-- `LOW_FONT`, digits 8 to F (R553). -/
def lowFontLetters : List Byte :=
  [ 0xF0, 0x90, 0xF0, 0x90, 0xF0, 0xF0, 0x90, 0xF0, 0x10, 0xF0, 0xF0, 0x90, 0xF0, 0x90, 0x90, 0xE0, 0x90, 0xE0, 0x90, 0xE0,
    0xF0, 0x80, 0x80, 0x80, 0xF0, 0xE0, 0x90, 0x90, 0x90, 0xE0, 0xF0, 0x80, 0xF0, 0x80, 0xF0, 0xF0, 0x80, 0xF0, 0x80, 0x80 ]

/-- The standard low-resolution font, the parameter's default (R553; PRESUMED, log 5). -/
def standardLowFont : List Byte := lowFontDigits ++ lowFontLetters

/-- The configuration of the machine `State.reset` describes. Its values are DESIGN CHOICES among those the spec allows (log 2,
3) or open constants with no body (log 4); statements about reset hold for every configuration, through `State.initialise`. -/
def resetConfig : Config where
  variant := .xochip
  compatibilityMode := false
  allowMisaligned := false
  jumpQuirk := Config.openJumpQuirk
  flagWriteOrder := .flagFirst
  addressWrap := .mask
  drawOriginWrap := false
  lowFontBase := 0x1B0
  highFontBase := 0x110
  lowFont := standardLowFont
  highFont := (List.range highFontLength).map Config.openHighFontByte
  cyclesPerFrame := Config.openCyclesPerFrame

end Sys2Proof.Machine
end

