-- ==== Sys2Proof/Syntax.lean ====
section
/-! DEFINITION. The fifty operations, one constructor per row of spec/opcode_table.json (30_encoding.md R121 to R124, R128). -/

namespace Sys2Proof

/-- One decoded operation. Register operands `x`, `y` name `V[x]`, `V[y]` (R117). -/
inductive Instr where
  -- base layer (R121)
  | cls
  | ret
  | jp (nnn : Addr12)
  | call (nnn : Addr12)
  | seImm (x : Nibble) (nn : Byte)
  | sneImm (x : Nibble) (nn : Byte)
  | seReg (x y : Nibble)
  | ldImm (x : Nibble) (nn : Byte)
  | addImm (x : Nibble) (nn : Byte)
  | ldReg (x y : Nibble)
  | or (x y : Nibble)
  | and (x y : Nibble)
  | xor (x y : Nibble)
  | addReg (x y : Nibble)
  | sub (x y : Nibble)
  | shr (x y : Nibble)
  | subn (x y : Nibble)
  | shl (x y : Nibble)
  | sneReg (x y : Nibble)
  | ldI (nnn : Addr12)
  | jpV0 (nnn : Addr12)
  | rnd (x : Nibble) (nn : Byte)
  | drw (x y n : Nibble)
  | skp (x : Nibble)
  | sknp (x : Nibble)
  | ldVxDt (x : Nibble)
  | ldVxK (x : Nibble)
  | ldDtVx (x : Nibble)
  | ldStVx (x : Nibble)
  | addI (x : Nibble)
  | ldF (x : Nibble)
  | ldB (x : Nibble)
  | ldMemVx (x : Nibble)
  | ldVxMem (x : Nibble)
  -- SuperChip layer (R122)
  | scdown (n : Nibble)
  | scright
  | scleft
  | exit
  | low
  | high
  | drw16 (x y : Nibble)
  | ldHf (x : Nibble)
  | ldRVx (x : Nibble)
  | ldVxR (x : Nibble)
  -- XO-Chip layer (R123)
  | scup (n : Nibble)
  | save (x y : Nibble)
  | load (x y : Nibble)
  /-- The literal is read by the operation, not decoded (R115). -/
  | ldILong
  /-- `PLANE n`: the mask is the field `x` (R116, R459). -/
  | plane (n : Nibble)
  | audio
  deriving DecidableEq, Repr

/-- The opcode table a variant adds (00_scope.md R12, 30_encoding.md R120). -/
inductive Layer where
  | base
  | schip
  | xo
  deriving DecidableEq, Repr

end Sys2Proof
end

