-- ==== Sys2Proof/WellFormed.lean ====
section
/-! DEFINITION. Which operations a variant's decoder can give. The operands need no check: every value of a field's type is
an operand (10_state.md R31). -/

namespace Sys2Proof

/-- The layer that decodes an operation (30_encoding.md R121 to R123). -/
def Instr.layer : Instr → Layer
  | .scdown _ | .scright | .scleft | .exit | .low | .high | .drw16 _ _ | .ldHf _ | .ldRVx _ | .ldVxR _ => .schip
  | .scup _ | .save _ _ | .load _ _ | .ldILong | .plane _ | .audio => .xo
  | .cls | .ret | .jp _ | .call _ | .seImm _ _ | .sneImm _ _ | .seReg _ _ | .ldImm _ _ | .addImm _ _ | .ldReg _ _
  | .or _ _ | .and _ _ | .xor _ _ | .addReg _ _ | .sub _ _ | .shr _ _ | .subn _ _ | .shl _ _ | .sneReg _ _ | .ldI _
  | .jpV0 _ | .rnd _ _ | .drw _ _ _ | .skp _ | .sknp _ | .ldVxDt _ | .ldVxK _ | .ldDtVx _ | .ldStVx _ | .addI _
  | .ldF _ | .ldB _ | .ldMemVx _ | .ldVxMem _ => .base

/-- The layers a variant activates (30_encoding.md R120, R125). -/
def Layer.activeIn : Layer → Variant → Bool
  | .base, _ => true
  | .schip, .chip8 => false
  | .schip, .schip => true
  | .schip, .xochip => true
  | .xo, .chip8 => false
  | .xo, .schip => false
  | .xo, .xochip => true

/-- An operation whose word a higher active layer takes: only `DRW` with `n = 0`, where `DRW16` is active (R120). -/
def Instr.shadowedIn : Instr → Variant → Bool
  | .drw _ _ n, v => n == 0#4 && Layer.schip.activeIn v
  | _, _ => false

/-- The operations the decoder of variant `v` gives. -/
def Instr.wellFormed (v : Variant) (i : Instr) : Bool :=
  i.layer.activeIn v && !i.shadowedIn v

end Sys2Proof
end

