-- ==== Sys2Proof/Decode.lean ====
section
/-! DEFINITION. The decoder (30_encoding.md R113, R120 to R126), the encoder, and the opcode table's rows. -/

namespace Sys2Proof

/-- `w[15:12]`, the major opcode (R113). -/
def fieldOp (w : Word) : Nibble := w.extractLsb' 12 4
/-- `w[11:8]` (R113). -/
def fieldX (w : Word) : Nibble := w.extractLsb' 8 4
/-- `w[7:4]` (R113). -/
def fieldY (w : Word) : Nibble := w.extractLsb' 4 4
/-- `w[3:0]` (R113). -/
def fieldN (w : Word) : Nibble := w.extractLsb' 0 4
/-- `w[7:0]` (R113). -/
def fieldNN (w : Word) : Byte := w.extractLsb' 0 8
/-- `w[11:0]` (R113). -/
def fieldNNN (w : Word) : Addr12 := w.extractLsb' 0 12

/-- Major opcode 8, selected by `n` (R121). -/
def baseArithmetic (x y n : Nibble) : Option Instr :=
  match n.toNat with
  | 0x0 => some (.ldReg x y)
  | 0x1 => some (.or x y)
  | 0x2 => some (.and x y)
  | 0x3 => some (.xor x y)
  | 0x4 => some (.addReg x y)
  | 0x5 => some (.sub x y)
  | 0x6 => some (.shr x y)
  | 0x7 => some (.subn x y)
  | 0xE => some (.shl x y)
  | _ => none

/-- Major opcode F of the base layer, selected by `nn` (R121). -/
def baseMisc (x : Nibble) (nn : Byte) : Option Instr :=
  match nn.toNat with
  | 0x07 => some (.ldVxDt x)
  | 0x0A => some (.ldVxK x)
  | 0x15 => some (.ldDtVx x)
  | 0x18 => some (.ldStVx x)
  | 0x1E => some (.addI x)
  | 0x29 => some (.ldF x)
  | 0x33 => some (.ldB x)
  | 0x55 => some (.ldMemVx x)
  | 0x65 => some (.ldVxMem x)
  | _ => none

/-- `BaseLayer(w)`: dispatch on the top nibble, then on `nn` or `n` (R121). -/
def baseLayer (w : Word) : Option Instr :=
  match (fieldOp w).toNat with
  | 0x0 => if w = 0x00E0#16 then some .cls else if w = 0x00EE#16 then some .ret else none
  | 0x1 => some (.jp (fieldNNN w))
  | 0x2 => some (.call (fieldNNN w))
  | 0x3 => some (.seImm (fieldX w) (fieldNN w))
  | 0x4 => some (.sneImm (fieldX w) (fieldNN w))
  | 0x5 => if fieldN w = 0#4 then some (.seReg (fieldX w) (fieldY w)) else none
  | 0x6 => some (.ldImm (fieldX w) (fieldNN w))
  | 0x7 => some (.addImm (fieldX w) (fieldNN w))
  | 0x8 => baseArithmetic (fieldX w) (fieldY w) (fieldN w)
  | 0x9 => if fieldN w = 0#4 then some (.sneReg (fieldX w) (fieldY w)) else none
  | 0xA => some (.ldI (fieldNNN w))
  | 0xB => some (.jpV0 (fieldNNN w))
  | 0xC => some (.rnd (fieldX w) (fieldNN w))
  | 0xD => some (.drw (fieldX w) (fieldY w) (fieldN w))
  | 0xE =>
    if fieldNN w = 0x9E#8 then some (.skp (fieldX w)) else if fieldNN w = 0xA1#8 then some (.sknp (fieldX w)) else none
  | 0xF => baseMisc (fieldX w) (fieldNN w)
  | _ => none

/-- `SchipLayer(w)` (R122). -/
def schipLayer (w : Word) : Option Instr :=
  match (fieldOp w).toNat with
  | 0x0 =>
    if w.extractLsb' 4 12 = 0x00C#12 then some (.scdown (fieldN w))
    else if w = 0x00FB#16 then some .scright
    else if w = 0x00FC#16 then some .scleft
    else if w = 0x00FD#16 then some .exit
    else if w = 0x00FE#16 then some .low
    else if w = 0x00FF#16 then some .high
    else none
  | 0xD => if fieldN w = 0#4 then some (.drw16 (fieldX w) (fieldY w)) else none
  | 0xF =>
    if fieldNN w = 0x30#8 then some (.ldHf (fieldX w))
    else if fieldNN w = 0x75#8 then some (.ldRVx (fieldX w))
    else if fieldNN w = 0x85#8 then some (.ldVxR (fieldX w))
    else none
  | _ => none

/-- `XoLayer(w)` (R123). -/
def xoLayer (w : Word) : Option Instr :=
  match (fieldOp w).toNat with
  | 0x0 => if w.extractLsb' 4 12 = 0x00D#12 then some (.scup (fieldN w)) else none
  | 0x5 =>
    if fieldN w = 2#4 then some (.save (fieldX w) (fieldY w))
    else if fieldN w = 3#4 then some (.load (fieldX w) (fieldY w))
    else none
  | 0xF =>
    if w = 0xF000#16 then some .ldILong
    else if fieldNN w = 0x01#8 then some (.plane (fieldX w))
    else if w = 0xF002#16 then some .audio
    else none
  | _ => none

/-- The layer function of a layer. -/
def layerDecode : Layer → Word → Option Instr
  | .base => baseLayer
  | .schip => schipLayer
  | .xo => xoLayer

/-- Why the decoder rejects a word (R126). -/
inductive DecodeError where
  /-- No layer of any variant accepts the word (60_exceptions.md R501). -/
  | illegalInstruction
  /-- A layer of a higher variant accepts it (60_exceptions.md R502). -/
  | variantViolation
  deriving DecidableEq, Repr

/-- What the active layers of a variant give, a higher layer before a lower one (R120). -/
def activeLayers (v : Variant) (w : Word) : Option Instr :=
  match v with
  | .xochip => (xoLayer w).or ((schipLayer w).or (baseLayer w))
  | .schip => (schipLayer w).or (baseLayer w)
  | .chip8 => baseLayer w

/-- `Decode(variant, w, fetch_pc)` (R120): it reads the variant and the word only (R118). -/
def decode (v : Variant) (w : Word) : Except DecodeError Instr :=
  match activeLayers v w with
  | some i => .ok i
  | none =>
    if (schipLayer w).isSome || (xoLayer w).isSome then .error .variantViolation else .error .illegalInstruction

/-- The big-endian word of two bytes, the first at the lower address (20_memory.md R84). -/
def wordOfBytes (hi lo : Byte) : Word := hi ++ lo

/-- The decoder on the two bytes at the fetch address, the lower address first. The literal of `LD I,long` is not decoded
(R115). -/
def decodeBytes (v : Variant) (hi lo : Byte) : Except DecodeError Instr := decode v (wordOfBytes hi lo)

/-- Instruction length in bytes, told from the first word alone (R115). -/
def instrLength (v : Variant) (w : Word) : Nat := if v = .xochip ∧ w = 0xF000#16 then 4 else 2

/-- The first word of an operation (R116, R121 to R123). The second word of `LD I,long` is data, not part of the operation. -/
def encode : Instr → Word
  | .cls => 0x00E0#16
  | .ret => 0x00EE#16
  | .jp nnn => 0x1#4 ++ nnn
  | .call nnn => 0x2#4 ++ nnn
  | .seImm x nn => 0x3#4 ++ x ++ nn
  | .sneImm x nn => 0x4#4 ++ x ++ nn
  | .seReg x y => 0x5#4 ++ x ++ y ++ 0x0#4
  | .ldImm x nn => 0x6#4 ++ x ++ nn
  | .addImm x nn => 0x7#4 ++ x ++ nn
  | .ldReg x y => 0x8#4 ++ x ++ y ++ 0x0#4
  | .or x y => 0x8#4 ++ x ++ y ++ 0x1#4
  | .and x y => 0x8#4 ++ x ++ y ++ 0x2#4
  | .xor x y => 0x8#4 ++ x ++ y ++ 0x3#4
  | .addReg x y => 0x8#4 ++ x ++ y ++ 0x4#4
  | .sub x y => 0x8#4 ++ x ++ y ++ 0x5#4
  | .shr x y => 0x8#4 ++ x ++ y ++ 0x6#4
  | .subn x y => 0x8#4 ++ x ++ y ++ 0x7#4
  | .shl x y => 0x8#4 ++ x ++ y ++ 0xE#4
  | .sneReg x y => 0x9#4 ++ x ++ y ++ 0x0#4
  | .ldI nnn => 0xA#4 ++ nnn
  | .jpV0 nnn => 0xB#4 ++ nnn
  | .rnd x nn => 0xC#4 ++ x ++ nn
  | .drw x y n => 0xD#4 ++ x ++ y ++ n
  | .skp x => 0xE#4 ++ x ++ 0x9E#8
  | .sknp x => 0xE#4 ++ x ++ 0xA1#8
  | .ldVxDt x => 0xF#4 ++ x ++ 0x07#8
  | .ldVxK x => 0xF#4 ++ x ++ 0x0A#8
  | .ldDtVx x => 0xF#4 ++ x ++ 0x15#8
  | .ldStVx x => 0xF#4 ++ x ++ 0x18#8
  | .addI x => 0xF#4 ++ x ++ 0x1E#8
  | .ldF x => 0xF#4 ++ x ++ 0x29#8
  | .ldB x => 0xF#4 ++ x ++ 0x33#8
  | .ldMemVx x => 0xF#4 ++ x ++ 0x55#8
  | .ldVxMem x => 0xF#4 ++ x ++ 0x65#8
  | .scdown n => 0x00C#12 ++ n
  | .scright => 0x00FB#16
  | .scleft => 0x00FC#16
  | .exit => 0x00FD#16
  | .low => 0x00FE#16
  | .high => 0x00FF#16
  | .drw16 x y => 0xD#4 ++ x ++ y ++ 0x0#4
  | .ldHf x => 0xF#4 ++ x ++ 0x30#8
  | .ldRVx x => 0xF#4 ++ x ++ 0x75#8
  | .ldVxR x => 0xF#4 ++ x ++ 0x85#8
  | .scup n => 0x00D#12 ++ n
  | .save x y => 0x5#4 ++ x ++ y ++ 0x2#4
  | .load x y => 0x5#4 ++ x ++ y ++ 0x3#4
  | .ldILong => 0xF000#16
  | .plane n => 0xF#4 ++ n ++ 0x01#8
  | .audio => 0xF002#16

/-- The mnemonic of spec/opcode_table.json. -/
def Instr.mnemonic : Instr → String
  | .cls => "CLS" | .ret => "RET" | .jp _ => "JP" | .call _ => "CALL"
  | .seImm _ _ => "SE_IMM" | .sneImm _ _ => "SNE_IMM" | .seReg _ _ => "SE_REG"
  | .ldImm _ _ => "LD_IMM" | .addImm _ _ => "ADD_IMM" | .ldReg _ _ => "LD_REG"
  | .or _ _ => "OR" | .and _ _ => "AND" | .xor _ _ => "XOR" | .addReg _ _ => "ADD_REG"
  | .sub _ _ => "SUB" | .shr _ _ => "SHR" | .subn _ _ => "SUBN" | .shl _ _ => "SHL"
  | .sneReg _ _ => "SNE_REG" | .ldI _ => "LD_I" | .jpV0 _ => "JP_V0" | .rnd _ _ => "RND"
  | .drw _ _ _ => "DRW" | .skp _ => "SKP" | .sknp _ => "SKNP" | .ldVxDt _ => "LD_VX_DT"
  | .ldVxK _ => "LD_VX_K" | .ldDtVx _ => "LD_DT_VX" | .ldStVx _ => "LD_ST_VX" | .addI _ => "ADD_I"
  | .ldF _ => "LD_F" | .ldB _ => "LD_B" | .ldMemVx _ => "LD_MEM_VX" | .ldVxMem _ => "LD_VX_MEM"
  | .scdown _ => "SCDOWN" | .scright => "SCRIGHT" | .scleft => "SCLEFT" | .exit => "EXIT"
  | .low => "LOW" | .high => "HIGH" | .drw16 _ _ => "DRW16" | .ldHf _ => "LD_HF"
  | .ldRVx _ => "LD_R_VX" | .ldVxR _ => "LD_VX_R" | .scup _ => "SCUP" | .save _ _ => "SAVE"
  | .load _ _ => "LOAD" | .ldILong => "LD_I_LONG" | .plane _ => "PLANE" | .audio => "AUDIO"

/-- One row of spec/opcode_table.json: a word matches it when `w & mask = value` (R124). -/
structure OpcodeRow where
  mnemonic : String
  layer    : Layer
  mask     : Word
  value    : Word
  deriving DecidableEq, Repr

/-- The row accepts the word. -/
def OpcodeRow.accepts (r : OpcodeRow) (w : Word) : Bool := w &&& r.mask == r.value

/-- The table's base rows, first half. -/
def baseRowsLow : List OpcodeRow :=
  [ ⟨"CLS", .base, 0xFFFF, 0x00E0⟩, ⟨"RET", .base, 0xFFFF, 0x00EE⟩, ⟨"JP", .base, 0xF000, 0x1000⟩,
    ⟨"CALL", .base, 0xF000, 0x2000⟩, ⟨"SE_IMM", .base, 0xF000, 0x3000⟩, ⟨"SNE_IMM", .base, 0xF000, 0x4000⟩,
    ⟨"SE_REG", .base, 0xF00F, 0x5000⟩, ⟨"LD_IMM", .base, 0xF000, 0x6000⟩, ⟨"ADD_IMM", .base, 0xF000, 0x7000⟩,
    ⟨"LD_REG", .base, 0xF00F, 0x8000⟩, ⟨"OR", .base, 0xF00F, 0x8001⟩, ⟨"AND", .base, 0xF00F, 0x8002⟩,
    ⟨"XOR", .base, 0xF00F, 0x8003⟩, ⟨"ADD_REG", .base, 0xF00F, 0x8004⟩, ⟨"SUB", .base, 0xF00F, 0x8005⟩,
    ⟨"SHR", .base, 0xF00F, 0x8006⟩, ⟨"SUBN", .base, 0xF00F, 0x8007⟩, ⟨"SHL", .base, 0xF00F, 0x800E⟩ ]

/-- The table's base rows, second half. -/
def baseRowsHigh : List OpcodeRow :=
  [ ⟨"SNE_REG", .base, 0xF00F, 0x9000⟩, ⟨"LD_I", .base, 0xF000, 0xA000⟩, ⟨"JP_V0", .base, 0xF000, 0xB000⟩,
    ⟨"RND", .base, 0xF000, 0xC000⟩, ⟨"DRW", .base, 0xF000, 0xD000⟩, ⟨"SKP", .base, 0xF0FF, 0xE09E⟩,
    ⟨"SKNP", .base, 0xF0FF, 0xE0A1⟩, ⟨"LD_VX_DT", .base, 0xF0FF, 0xF007⟩, ⟨"LD_VX_K", .base, 0xF0FF, 0xF00A⟩,
    ⟨"LD_DT_VX", .base, 0xF0FF, 0xF015⟩, ⟨"LD_ST_VX", .base, 0xF0FF, 0xF018⟩, ⟨"ADD_I", .base, 0xF0FF, 0xF01E⟩,
    ⟨"LD_F", .base, 0xF0FF, 0xF029⟩, ⟨"LD_B", .base, 0xF0FF, 0xF033⟩, ⟨"LD_MEM_VX", .base, 0xF0FF, 0xF055⟩,
    ⟨"LD_VX_MEM", .base, 0xF0FF, 0xF065⟩ ]

/-- The table's SuperChip and XO-Chip rows. -/
def extensionRows : List OpcodeRow :=
  [ ⟨"SCDOWN", .schip, 0xFFF0, 0x00C0⟩, ⟨"SCRIGHT", .schip, 0xFFFF, 0x00FB⟩, ⟨"SCLEFT", .schip, 0xFFFF, 0x00FC⟩,
    ⟨"EXIT", .schip, 0xFFFF, 0x00FD⟩, ⟨"LOW", .schip, 0xFFFF, 0x00FE⟩, ⟨"HIGH", .schip, 0xFFFF, 0x00FF⟩,
    ⟨"DRW16", .schip, 0xF00F, 0xD000⟩, ⟨"LD_HF", .schip, 0xF0FF, 0xF030⟩, ⟨"LD_R_VX", .schip, 0xF0FF, 0xF075⟩,
    ⟨"LD_VX_R", .schip, 0xF0FF, 0xF085⟩,
    ⟨"SCUP", .xo, 0xFFF0, 0x00D0⟩, ⟨"SAVE", .xo, 0xF00F, 0x5002⟩, ⟨"LOAD", .xo, 0xF00F, 0x5003⟩,
    ⟨"LD_I_LONG", .xo, 0xFFFF, 0xF000⟩, ⟨"PLANE", .xo, 0xF0FF, 0xF001⟩, ⟨"AUDIO", .xo, 0xFFFF, 0xF002⟩ ]

/-- The fifty rows of spec/opcode_table.json, in its order (R124). The decoder does not use it. -/
def opcodeTable : List OpcodeRow := baseRowsLow ++ baseRowsHigh ++ extensionRows

/-- The `k`-th byte, in memory order, of the instruction whose bits are `w` as the table numbers them: bit 0 is the least
significant bit of the first word, a second word stands in bits 31..16, every bit above `nbits` is taken as 0, and each word is
big-endian in memory (20_memory.md R84). -/
def tableByte (nbits w k : Nat) : Byte :=
  BitVec.ofNat 8 ((w % 2 ^ nbits) >>> (16 * (k / 2) + 8 * (1 - k % 2)))

/-- The operation the decoder reads from an instruction word numbered as the table numbers it, under the variant of the machine
that `State.reset` describes (XOCHIP, whose layers hold all fifty rows; log 20). -/
def decodeTableWord (nbits w : Nat) : Option Instr :=
  match decodeBytes Machine.resetConfig.variant (tableByte nbits w 0) (tableByte nbits w 1) with
  | .ok i => some i
  | .error _ => none

end Sys2Proof
end

