-- ==== Sys2Proof/Machine/State.lean ====
section
/-! DEFINITION. The state of one machine instance (10_state.md R30), the faults (60_exceptions.md R500) and the state after
`Initialise()` (10_state.md R52, 70_reset_and_hazards.md R550). -/

namespace Sys2Proof.Machine

/-- An event of the event output (10_state.md R67). -/
inductive Event where
  | beepStart
  | beepStop
  | highResolutionConfigured
  | lowResolutionConfigured
  deriving DecidableEq, Repr

/-- One answer of `checkKeyPress()` (10_state.md R66). -/
structure KeyPoll where
  pressed : Bool
  key     : Nibble
  deriving DecidableEq, Repr

/-- The draws of the step (10_state.md R65, R66): answers the host has queued for each port, taken from the front, and the
number of draws taken so far. With an empty queue the answer is a free value of Config applied to that number (log 6, 7). -/
structure Inputs where
  randomBytes : List Byte
  keyAnswers  : List Bool
  keyPolls    : List KeyPoll
  taken       : Nat
  deriving DecidableEq, Repr

/-- The state of one machine instance (10_state.md R30), with its configuration (log 1), its event output (log 8) and its
draws (log 6). -/
structure State where
  /-- The configuration of 00_scope.md R6; no call changes it. -/
  config : Config
  /-- R44: the bytes that differ from the reset contents, by rising address (log 14). -/
  memory : List Host.Cell
  /-- R31: the general registers; `V[15]` is `VF` (R32). -/
  V : Vector Byte 16
  /-- R34. -/
  I : Word
  /-- R35. -/
  pc : Word
  /-- R36. -/
  stack : Vector Word 16
  /-- R37. -/
  sp : Nibble
  /-- R38: the delay timer. -/
  DT : Byte
  /-- R38: the sound timer. -/
  ST : Byte
  /-- R39: the flag registers. -/
  R : Vector Byte 8
  /-- R40, R45. -/
  waitingForKey : Bool
  /-- R40. -/
  waitingForKeyRegister : Nibble
  /-- R42. -/
  finished : Bool
  /-- R43: the audio pattern. -/
  pattern : Vector Byte 16
  /-- R46: `NUM_PLANES` planes. -/
  planes : List Plane
  /-- R48. -/
  highResolution : Bool
  /-- R49. -/
  planeMask : Nibble
  /-- R67: the events of every call so far, oldest first. -/
  events : List Event
  /-- R65, R66. -/
  inputs : Inputs
  deriving DecidableEq, Repr

/-- The faults of 60_exceptions.md R500. Each is the spec's own and ends the step (R507); the state at the raise is
`Machine.stateAtRaise` (log 10). -/
inductive Fault where
  /-- Raised by `step` for a word no layer of any variant decodes (R501). Safe: the spec raises it too. -/
  | illegalInstruction (opcode : Word) (pc : Word)
  /-- Raised by `step` for a word only a higher variant decodes (R502). Safe: the spec raises it too. -/
  | variantViolation (opcode : Word) (pc : Word)
  /-- Raised by `step` before the fetch at an odd `pc` where ALLOW_MISALIGNED is false (R503). Safe: the spec raises it too. -/
  | misalignedInstructionFetch (pc : Word)
  /-- Raised by `LD R,Vx` and `LD Vx,R` for `x > 7`, before any write (R504). Safe: the spec raises it too. -/
  | flagRegisterIndex (opcode : Word) (pc : Word)
  deriving DecidableEq, Repr

/-- Why the model gives no meaning. -/
inductive Refusal where
  /-- Raised by a refused arm of `exec` for an instruction that has no meaning yet; no arm does. Safe: the model stops. -/
  | notModelled (mnemonic : String)
  deriving DecidableEq, Repr

/-- No draw queued, none taken. -/
def Inputs.none : Inputs := { randomBytes := [], keyAnswers := [], keyPolls := [], taken := 0 }

/-- The state after `Initialise()` under a configuration (10_state.md R52; 70_reset_and_hazards.md R550). Memory lists nothing:
an unlisted address reads as the reset contents, the font tables included (`resetByte`). -/
def State.initialise (c : Config) : State where
  config := c
  memory := []
  V := Vector.replicate 16 0
  I := 0
  pc := 0x200
  stack := Vector.replicate 16 0
  sp := 0
  DT := 0
  ST := 0
  R := Vector.replicate 8 0
  waitingForKey := false
  waitingForKeyRegister := 0
  finished := false
  pattern := Vector.replicate 16 0
  planes := List.replicate (numPlanes c) 0
  highResolution := false
  planeMask := 1
  events := []
  inputs := Inputs.none

/-- The machine right after reset, under `resetConfig` (log 2, 3, 4, 12). -/
def State.reset : State := State.initialise resetConfig

end Sys2Proof.Machine
end

