-- ==== Sys2Proof/Machine/Ops.lean ====
section
/-! DEFINITION. The named operations over memory (20_memory.md), registers, `pc`, events, draws and faults that the meanings
share. -/

namespace Sys2Proof.Machine

/-- What a meaning answers. -/
abbrev Result := Host.Outcome State Fault Refusal

/-- `f 0`, then `f 1`, …, then `f (n-1)`: a counted loop of the spec's pseudocode. -/
def forUpTo {σ : Type} : Nat → (Nat → σ → σ) → σ → σ
  | 0, _, s => s
  | n + 1, f, s => f n (forUpTo n f s)

/-! ### Memory -/

/-- `Addr(a)` (20_memory.md R82). -/
def addr (c : Config) (a : Nat) : Nat :=
  match c.addressWrap with
  | .mask => a % memorySize c
  | .clamp => min a (memorySize c - 1)

/-- The listed byte at an address. -/
def Memory.lookup : List Host.Cell → Nat → Option Byte
  | [], _ => none
  | (k, b) :: m, a => if k = a then some b else Memory.lookup m a

/-- The byte at an address of the space: the listed one, else the reset contents (log 14). -/
def Memory.read (c : Config) (m : List Host.Cell) (a : Nat) : Byte := (Memory.lookup m a).getD (resetByte c a)

/-- Put a cell before the first cell of a higher address. -/
def Memory.insert (a : Nat) (v : Byte) : List Host.Cell → List Host.Cell
  | [] => [(a, v)]
  | (k, b) :: m => if a < k then (a, v) :: (k, b) :: m else (k, b) :: Memory.insert a v m

/-- The memory with one byte replaced; a byte equal to the reset contents is not listed. -/
def Memory.write (c : Config) (m : List Host.Cell) (a : Nat) (v : Byte) : List Host.Cell :=
  if v = resetByte c a then m.filter (fun cell => cell.1 ≠ a) else Memory.insert a v (m.filter (fun cell => cell.1 ≠ a))

/-- The canonical form: addresses strictly rising, inside the space, no byte equal to the reset contents. -/
def Memory.wf (c : Config) (m : List Host.Cell) : Bool :=
  decide (m.Pairwise (fun p q => p.1 < q.1)) && m.all (fun p => decide (p.1 < memorySize c) && p.2 != resetByte c p.1)

/-- `MemRead(a, 1)` (R83). -/
def State.readByte (s : State) (a : Nat) : Byte := Memory.read s.config s.memory (addr s.config a)

/-- `MemWrite(a, 1, v)` (R83). -/
def State.writeByte (s : State) (a : Nat) (v : Byte) : State :=
  { s with memory := Memory.write s.config s.memory (addr s.config a) v }

/-- `MemRead(a, 2)`: big-endian, `a + 1` formed before `Addr` (R83, R84). -/
def State.readWord (s : State) (a : Nat) : Word := wordOfBytes (s.readByte a) (s.readByte (a + 1))

/-! ### Registers -/

/-- `V[x]` (10_state.md R31). -/
def State.reg (s : State) (x : Nibble) : Byte := s.V[x.toNat]'x.isLt

/-- `V[x] <- v` (R31). -/
def State.setReg (s : State) (x : Nibble) (v : Byte) : State := { s with V := s.V.set x.toNat v x.isLt }

/-- `R[k]` (R39). -/
def State.flagReg (s : State) (k : BitVec 3) : Byte := s.R[k.toNat]'k.isLt

/-- `R[k] <- v` (R39). -/
def State.setFlagReg (s : State) (k : BitVec 3) (v : Byte) : State := { s with R := s.R.set k.toNat v k.isLt }

/-- `stack[i]` (R36). -/
def State.stackEntry (s : State) (i : Nibble) : Word := s.stack[i.toNat]'i.isLt

/-- `stack[i] <- v` (R36). -/
def State.setStackEntry (s : State) (i : Nibble) (v : Word) : State := { s with stack := s.stack.set i.toNat v i.isLt }

/-! ### The program counter -/

/-- The advance before the operation (30_encoding.md R114). -/
def State.advancePc (s : State) : State := { s with pc := s.pc + 2 }

/-- `Skip()`: one word, in every variant (40_control_flow.md R200). -/
def State.skip (s : State) : State := { s with pc := s.pc + 2 }

/-- `if p: Skip()`. -/
def State.skipIf (s : State) (p : Bool) : State := if p then s.skip else s

/-- The fetch would be misaligned and is not allowed (30_encoding.md R111). -/
def State.fetchMisaligned (s : State) : Bool := s.pc.getLsbD 0 && !s.config.allowMisaligned

/-- The instruction word at `pc` (R112). -/
def State.fetchWord (s : State) : Word := s.readWord s.pc.toNat

/-! ### Events -/

/-- `emit(event)` (10_state.md R67; log 8). -/
def State.emit (s : State) (e : Event) : State := { s with events := s.events ++ [e] }

/-- `if p: emit(event)`. -/
def State.emitIf (s : State) (p : Bool) (e : Event) : State := if p then s.emit e else s

/-- The events a call raised, as the call's list of 92 D51: those of the state after it beyond those before it. -/
def eventsRaised (before after : State) : List Event := after.events.drop before.events.length

/-! ### Draws (10_state.md R65, R66; log 6, 7) -/

/-- `draw_byte()`: the answer. -/
def State.drawnByte (s : State) : Byte :=
  match s.inputs.randomBytes with
  | b :: _ => b
  | [] => Config.freeRandomByte s.inputs.taken

/-- The draw of `draw_byte()` is taken. -/
def State.takeByte (s : State) : State :=
  { s with inputs := { s.inputs with randomBytes := s.inputs.randomBytes.tail, taken := s.inputs.taken + 1 } }

/-- `key_pressed(k)` for `k` in 0..15, else a draw of a bool: the answer (43_timer_key_ops.md R353). -/
def State.keyAnswer (s : State) (k : Byte) : Bool :=
  match s.inputs.keyAnswers with
  | p :: _ => p
  | [] =>
    if k.toNat ≤ 15 then Config.freeKeyPressed s.inputs.taken (k.setWidth 4)
    else Config.freeKeyOutOfRange s.inputs.taken k

/-- The draw of a key query is taken. -/
def State.takeKeyAnswer (s : State) : State :=
  { s with inputs := { s.inputs with keyAnswers := s.inputs.keyAnswers.tail, taken := s.inputs.taken + 1 } }

/-- `check_key()`: the answer. -/
def State.keyPoll (s : State) : KeyPoll :=
  match s.inputs.keyPolls with
  | p :: _ => p
  | [] => { pressed := (Config.freeKeyPoll s.inputs.taken).1, key := (Config.freeKeyPoll s.inputs.taken).2 }

/-- The draw of `check_key()` is taken. -/
def State.takeKeyPoll (s : State) : State :=
  { s with inputs := { s.inputs with keyPolls := s.inputs.keyPolls.tail, taken := s.inputs.taken + 1 } }

/-! ### Faults (60_exceptions.md R500, R507): there is no trap entry and no return from one (R508). -/

/-- `raise E(info)`: the fault ends the step and goes to the host (R507). -/
def raise (r : Fault) : Result := .fault r

/-- The state at the raise, from the state before the step (R500, last column). -/
def stateAtRaise (r : Fault) (s : State) : State :=
  match r with
  | .misalignedInstructionFetch _ => s
  | .illegalInstruction _ _ => s.advancePc
  | .variantViolation _ _ => s.advancePc
  | .flagRegisterIndex _ _ => s.advancePc

/-- The fault of a decode error for the word `w` fetched at `fetchPc` (30_encoding.md R126). -/
def decodeFault (e : DecodeError) (w fetchPc : Word) : Fault :=
  match e with
  | .illegalInstruction => .illegalInstruction w fetchPc
  | .variantViolation => .variantViolation w fetchPc

/-- `fetch_pc` as an operation sees it: `pc` has been advanced by 2 (R114). -/
def State.fetchPc (s : State) : Word := s.pc - 2

end Sys2Proof.Machine
end

