-- ==== Sys2Proof/Machine/Operands.lean ====
section
/-! DEFINITION. The operand forms that a variant or a configuration decides: shift source, jump register, I increment, glyph
addresses, register ranges, immediates. -/

namespace Sys2Proof.Machine

/-- `nnn` zero-extended to 16 bits (30_encoding.md R117). -/
def zextAddr (nnn : Addr12) : Word := nnn.setWidth 16

/-- A register value zero-extended to 16 bits. -/
def zextByte (v : Byte) : Word := v.setWidth 16

/-- The source register of `SHR` and `SHL` (41_register_ops.md R261). -/
def shiftSource (c : Config) (x y : Nibble) : Nibble :=
  match c.variant with
  | .chip8 => y
  | .schip => x
  | .xochip => x

/-- The register `JP [V0]+nnn` adds: `V0`, or the one the top nibble of `nnn` names (40_control_flow.md R209). -/
def jumpRegister (c : Config) (nnn : Addr12) : Nibble :=
  match c.variant, c.jumpQuirk with
  | .chip8, _ => 0
  | _, .v0 => 0
  | _, .vx => nnn.extractLsb' 8 4

/-- `IncI` (42_index_memory_ops.md R305; 90_conflicts.md C1). -/
def incI (c : Config) : Bool := c.variant == .chip8 && !c.compatibilityMode

/-- `if IncI: I <- trunc_16(I + x + 1)` (R305, R307, R308). -/
def State.bumpI (s : State) (x : Nibble) : State :=
  if incI s.config then { s with I := s.I + (x.setWidth 16 + 1) } else s

/-- The glyph number a register selects: its low nibble (R302, R303; 92 D17). -/
def glyphIndex (v : Byte) : Nat := (v &&& 0xF).toNat

/-- The address of a low-resolution glyph, 5 bytes each (R302). -/
def lowGlyphAddress (c : Config) (v : Byte) : Word := BitVec.ofNat 16 (c.lowFontBase + 5 * glyphIndex v)

/-- The address of a high-resolution glyph, 10 bytes each (R303). -/
def highGlyphAddress (c : Config) (v : Byte) : Word := BitVec.ofNat 16 (c.highFontBase + 10 * glyphIndex v)

/-- `|x - y|` of a register range (R311, R312). -/
def rangeDistance (x y : Nibble) : Nat := if x.toNat ≤ y.toNat then y.toNat - x.toNat else x.toNat - y.toNat

/-- The `k`-th register of the range `x` to `y`, in either direction (R311, R312). -/
def rangeRegister (x y : Nibble) (k : Nat) : Nibble :=
  if x.toNat ≤ y.toNat then x + BitVec.ofNat 4 k else x - BitVec.ofNat 4 k

/-- The address `I + k`, at full precision (20_memory.md R83, 42_index_memory_ops.md R306). -/
def State.indexed (s : State) (k : Nat) : Nat := s.I.toNat + k

/-- The decimal digits of a byte: hundreds, tens, units (R304). -/
def hundreds (v : Byte) : Byte := BitVec.ofNat 8 (v.toNat / 100)
def tens (v : Byte) : Byte := BitVec.ofNat 8 (v.toNat / 10 % 10)
def units (v : Byte) : Byte := BitVec.ofNat 8 (v.toNat % 10)

end Sys2Proof.Machine
end

