-- ==== Sys2Proof/Machine/Flags.lean ====
section
/-! DEFINITION. The flag computations and the order in which `VF` and the result are written (41_register_ops.md R250, R251). -/

namespace Sys2Proof.Machine

/-- The index of `VF` (10_state.md R32). -/
def vf : Nibble := 15

/-- A condition as the byte 0 or 1. -/
def flagByte (p : Bool) : Byte := if p then 1 else 0

/-- Carry of `a + b` (R258). -/
def addFlag (a b : Byte) : Byte := flagByte (decide (b.toNat > 0xFF - a.toNat))
def addResult (a b : Byte) : Byte := a + b

/-- No borrow of `a - b` (R259). -/
def subFlag (a b : Byte) : Byte := flagByte (decide (a.toNat ≥ b.toNat))
def subResult (a b : Byte) : Byte := a - b

/-- No borrow of `b - a` (R260). -/
def subnFlag (a b : Byte) : Byte := flagByte (!decide (a.toNat > b.toNat))
def subnResult (a b : Byte) : Byte := b - a

/-- The bit a right shift puts out (R262). -/
def shrFlag (a _b : Byte) : Byte := flagByte (a.getLsbD 0)
def shrResult (a _b : Byte) : Byte := a >>> 1

/-- The bit a left shift puts out (R264). -/
def shlFlag (a _b : Byte) : Byte := flagByte (a.getLsbD 7)
def shlResult (a _b : Byte) : Byte := a <<< 1

/-- `FlagOp(x, s1, s2, Flag, Result)` (R251). -/
def flagOp (x s1 s2 : Nibble) (flag result : Byte → Byte → Byte) (s : State) : State :=
  match s.config.flagWriteOrder with
  | .flagFirst =>
    let t := s.setReg vf (flag (s.reg s1) (s.reg s2))
    t.setReg x (result (t.reg s1) (t.reg s2))
  | .flagLast => (s.setReg x (result (s.reg s1) (s.reg s2))).setReg vf (flag (s.reg s1) (s.reg s2))

/-- The range flag of `ADD I,Vx`: the full-precision sum exceeds 0xFFF, in every variant (42_index_memory_ops.md R301). -/
def indexFlag (i : Word) (v : Byte) : Byte := flagByte (decide (i.toNat + v.toNat > 0xFFF))

/-- `ADD I,Vx`, in the order of FLAG_WRITE_ORDER (R301). -/
def addIndexOp (x : Nibble) (s : State) : State :=
  match s.config.flagWriteOrder with
  | .flagFirst =>
    let t := s.setReg vf (indexFlag s.I (s.reg x))
    { t with I := t.I + zextByte (t.reg x) }
  | .flagLast => State.setReg { s with I := s.I + zextByte (s.reg x) } vf (indexFlag s.I (s.reg x))

end Sys2Proof.Machine
end

