-- ==== Sys2Proof/Machine/ControlFlow.lean ====
section
/-! DEFINITION. Control flow (40_control_flow.md). A meaning starts from the advanced `pc` (30_encoding.md R114). -/

namespace Sys2Proof.Machine

/-- R201. -/
def execRet (s : State) : Result := .next { s with sp := s.sp - 1, pc := s.stackEntry (s.sp - 1) }

/-- R202. -/
def execJp (nnn : Addr12) (s : State) : Result := .next { s with pc := zextAddr nnn }

/-- R203. -/
def execCall (nnn : Addr12) (s : State) : Result :=
  .next { s.setStackEntry s.sp s.pc with sp := s.sp + 1, pc := zextAddr nnn }

/-- R204. -/
def execSeImm (x : Nibble) (nn : Byte) (s : State) : Result := .next (s.skipIf (s.reg x == nn))

/-- R205. -/
def execSneImm (x : Nibble) (nn : Byte) (s : State) : Result := .next (s.skipIf (s.reg x != nn))

/-- R206. -/
def execSeReg (x y : Nibble) (s : State) : Result := .next (s.skipIf (s.reg x == s.reg y))

/-- R207. -/
def execSneReg (x y : Nibble) (s : State) : Result := .next (s.skipIf (s.reg x != s.reg y))

/-- R209. -/
def execJpV0 (nnn : Addr12) (s : State) : Result :=
  .next { s with pc := zextAddr nnn + zextByte (s.reg (jumpRegister s.config nnn)) }

/-- R210. -/
def execExit (s : State) : Result := .next { s with finished := true }

end Sys2Proof.Machine
end

