-- ==== Sys2Proof/Machine/DisplayEngine.lean ====
section
/-! DEFINITION. The display engine's primitives (44_display_engine.md): geometry, blitter, clear and scroll, resolution. -/

namespace Sys2Proof.Machine

/-! ### Geometry and plane selection -/

/-- `W` (10_state.md R48). -/
def State.width (s : State) : Nat := if s.highResolution then 128 else 64

/-- `H` (R48). -/
def State.height (s : State) : Nat := if s.highResolution then 64 else 32

/-- `Selected(p)` (44_display_engine.md R401). -/
def State.selected (s : State) (p : Nat) : Bool := decide (p < numPlanes s.config) && s.planeMask.getLsbD p

/-- `planes[p]` (R46). -/
def State.plane (s : State) (p : Nat) : Plane := s.planes.getD p 0

/-- Cell `i` of a plane (R51). -/
def Plane.cell (pl : Plane) (i : Nat) : Bool := pl.getLsbD i

/-- The plane whose only lit cell is `i`. -/
def Plane.single (i : Nat) : Plane := 1#8192 <<< i

/-- `planes[p][i] <- not planes[p][i]` (R403). -/
def Plane.toggle (pl : Plane) (i : Nat) : Plane := pl ^^^ Plane.single i

/-- A primitive applied to every selected plane. -/
def State.mapSelected (s : State) (f : Plane → Plane) : State :=
  { s with planes := s.planes.mapIdx (fun p pl => if s.selected p then f pl else pl) }

/-! ### The sprite blitter -/

/-- The plane being drawn and whether the current sprite row has hit (R403). -/
structure Blit where
  plane : Plane
  hit   : Bool
  deriving DecidableEq, Repr

/-- The plane being drawn and its collision row count so far (R403, R405). -/
structure Drawn where
  plane : Plane
  rows  : Nat
  deriving DecidableEq, Repr

/-- The planes being drawn, the collision count so far and the address of the next selected plane's data (R402). -/
structure Drawing where
  planes  : List Plane
  count   : Nat
  address : Nat
  deriving DecidableEq, Repr

/-- The bit of sprite row `r`, column `c`: the leftmost pixel is bit 7 (R403, R404). -/
def State.spriteBit (s : State) (a width r c : Nat) : Bool :=
  (s.readByte (a + r * (width / 8) + c / 8)).getLsbD (7 - c % 8)

/-- One set sprite bit at row `Y` and column `X` of a `w` by `h` screen: bottom-edge hit (R406), toggle (R403), or nothing
beyond the right edge (R407). -/
def blitPixel (w h X Y : Nat) (b : Blit) : Blit :=
  if Y ≥ h then { b with hit := true }
  else if X < w then
    { plane := Plane.toggle b.plane (Y * w + X), hit := b.hit || Plane.cell b.plane (Y * w + X) }
  else b

/-- One sprite row of one plane, its columns left to right. -/
def blitRow (s : State) (a dx dy width r : Nat) (pl : Plane) : Blit :=
  forUpTo width
    (fun c b => if s.spriteBit a width r c then blitPixel s.width s.height (dx + c) (dy + r) b else b)
    { plane := pl, hit := false }

/-- The draw origin, reduced where DRAW_ORIGIN_WRAP holds (R409). -/
def drawOrigin (c : Config) (v extent : Nat) : Nat := if c.drawOriginWrap then v % extent else v

/-- `DrawPlane(p, a, dx, dy, width, height)` (R403): the plane after it and its collision row count. -/
def drawPlane (s : State) (a dx dy width height : Nat) (pl : Plane) : Drawn :=
  forUpTo height
    (fun r d =>
      let b := blitRow s a (drawOrigin s.config dx s.width) (drawOrigin s.config dy s.height) width r d.plane
      { plane := b.plane, rows := d.rows + if b.hit then 1 else 0 })
    { plane := pl, rows := 0 }

/-- `Draw(addr, dx, dy, width, height)` (R402): only selected planes consume sprite data; the count is their sum. -/
def draw (s : State) (a dx dy width height : Nat) : Drawing :=
  forUpTo (numPlanes s.config)
    (fun p g =>
      if s.selected p then
        let d := drawPlane s g.address dx dy width height (g.planes.getD p 0)
        { planes := g.planes.set p d.plane, count := g.count + d.rows, address := g.address + height * (width / 8) }
      else g)
    { planes := s.planes, count := 0, address := a }

/-- The body of the draw instructions: origin `(V[x], V[y])` read before the draw, `VF` written after it
(45_display_ops.md R451, R452). -/
def drawSprite (x y : Nibble) (width height : Nat) (s : State) : State :=
  let g := draw s s.I.toNat (s.reg x).toNat (s.reg y).toNat width height
  State.setReg { s with planes := g.planes } vf (BitVec.ofNat 8 g.count)

/-! ### Clear and scroll, on one plane of a screen `w` cells wide and `h` high -/

/-- `n` lit cells from cell 0 on. -/
def Plane.ones (n : Nat) : Plane := BitVec.ofNat 8192 (2 ^ n - 1)

/-- The cells of row `r`. -/
def Plane.rowMask (w r : Nat) : Plane := Plane.ones w <<< (r * w)

/-- The cells of column `c`. -/
def Plane.columnMask (w h c : Nat) : Plane := forUpTo h (fun Y m => m ||| Plane.single (Y * w + c)) 0

/-- `CopyRow(src, dst)` on one plane (R411). -/
def Plane.copyRow (w src dst : Nat) (pl : Plane) : Plane :=
  (pl &&& ~~~ Plane.rowMask w dst) ||| (((pl &&& Plane.rowMask w src) >>> (src * w)) <<< (dst * w))

/-- `CopyColumn(src, dst)` on one plane (R412). -/
def Plane.copyColumn (w h src dst : Nat) (pl : Plane) : Plane :=
  (pl &&& ~~~ Plane.columnMask w h dst) ||| (((pl &&& Plane.columnMask w h src) >>> src) <<< dst)

/-- `ClearRow(r)` on one plane (R413). -/
def Plane.clearRow (w r : Nat) (pl : Plane) : Plane := pl &&& ~~~ Plane.rowMask w r

/-- `ClearColumn(c)` on one plane (R414). -/
def Plane.clearColumn (w h c : Nat) (pl : Plane) : Plane := pl &&& ~~~ Plane.columnMask w h c

/-- `ScrollDown(n)` on one plane: rows copied from row `h-n-1` down to row 0, then rows 0..n-1 cleared (R415). -/
def Plane.scrollDown (w h n : Nat) (pl : Plane) : Plane :=
  forUpTo n (fun r => Plane.clearRow w r)
    (forUpTo (h - n) (fun j => Plane.copyRow w (h - n - 1 - j) (h - n - 1 - j + n)) pl)

/-- `ScrollUp(n)` on one plane: rows copied from row 0 up, then the bottom `n` rows cleared (R416). -/
def Plane.scrollUp (w h n : Nat) (pl : Plane) : Plane :=
  forUpTo n (fun j => Plane.clearRow w (h - n + j)) (forUpTo (h - n) (fun row => Plane.copyRow w (row + n) row) pl)

/-- `ScrollRight4()` on one plane: columns copied from column `w-1` down to 4, then columns 0..3 cleared (R417). -/
def Plane.scrollRight4 (w h : Nat) (pl : Plane) : Plane :=
  forUpTo 4 (fun c => Plane.clearColumn w h c)
    (forUpTo (w - 4) (fun j => Plane.copyColumn w h (w - 1 - j - 4) (w - 1 - j)) pl)

/-- `ScrollLeft4()` on one plane: columns copied from column 0 up, then the 4 rightmost cleared (R418). -/
def Plane.scrollLeft4 (w h : Nat) (pl : Plane) : Plane :=
  forUpTo 4 (fun j => Plane.clearColumn w h (w - 4 + j))
    (forUpTo (w - 4) (fun col => Plane.copyColumn w h (col + 4) col) pl)

/-! ### The primitives on the selected planes. Planes do not read each other, so the loop over planes stands outside. -/

/-- `ClearSelected()` (R410). -/
def State.clearSelected (s : State) : State := s.mapSelected (fun _ => 0)

/-- `CopyRow(src, dst)` (R411). -/
def State.copyRow (s : State) (src dst : Nat) : State := s.mapSelected (Plane.copyRow s.width src dst)

/-- `CopyColumn(src, dst)` (R412). -/
def State.copyColumn (s : State) (src dst : Nat) : State := s.mapSelected (Plane.copyColumn s.width s.height src dst)

/-- `ClearRow(r)` (R413). -/
def State.clearRow (s : State) (r : Nat) : State := s.mapSelected (Plane.clearRow s.width r)

/-- `ClearColumn(c)` (R414). -/
def State.clearColumn (s : State) (c : Nat) : State := s.mapSelected (Plane.clearColumn s.width s.height c)

/-- `ScrollDown(n)` (R415). -/
def State.scrollDown (s : State) (n : Nat) : State := s.mapSelected (Plane.scrollDown s.width s.height n)

/-- `ScrollUp(n)` (R416). -/
def State.scrollUp (s : State) (n : Nat) : State := s.mapSelected (Plane.scrollUp s.width s.height n)

/-- `ScrollRight4()` (R417). -/
def State.scrollRight4 (s : State) : State := s.mapSelected (Plane.scrollRight4 s.width s.height)

/-- `ScrollLeft4()` (R418). -/
def State.scrollLeft4 (s : State) : State := s.mapSelected (Plane.scrollLeft4 s.width s.height)

/-! ### The resolution controller -/

/-- The first `n` cells of a plane, the others false. -/
def Plane.keepPrefix (n : Nat) (pl : Plane) : Plane := pl &&& Plane.ones n

/-- The event of a resolution switch (R420). -/
def resolutionEvent (hi : Bool) : Event := if hi then .highResolutionConfigured else .lowResolutionConfigured

/-- `SetResolution(hi)`: every plane keeps its first `min(oldLen, newLen)` cells (R419); then the event (R420). -/
def State.setResolution (s : State) (hi : Bool) : State :=
  let t := { s with highResolution := hi }
  State.emit
    { t with planes := s.planes.map (Plane.keepPrefix (min (s.width * s.height) (t.width * t.height))) }
    (resolutionEvent hi)

end Sys2Proof.Machine
end

