-- ==== Sys2Proof/Machine/DisplayOps.lean ====
section
/-! DEFINITION. Display instructions (45_display_ops.md), over the primitives of Machine/DisplayEngine.lean. -/

namespace Sys2Proof.Machine

/-- R450. -/
def execCls (s : State) : Result := .next s.clearSelected

/-- R451. -/
def execDrw (x y n : Nibble) (s : State) : Result := .next (drawSprite x y 8 n.toNat s)

/-- R452. -/
def execDrw16 (x y : Nibble) (s : State) : Result := .next (drawSprite x y 16 16 s)

/-- R453. -/
def execScdown (n : Nibble) (s : State) : Result := .next (s.scrollDown n.toNat)

/-- R454. -/
def execScup (n : Nibble) (s : State) : Result := .next (s.scrollUp n.toNat)

/-- R455. -/
def execScright (s : State) : Result := .next s.scrollRight4

/-- R456. -/
def execScleft (s : State) : Result := .next s.scrollLeft4

/-- R457. -/
def execLow (s : State) : Result := .next (s.setResolution false)

/-- R458. -/
def execHigh (s : State) : Result := .next (s.setResolution true)

/-- R459: the mask is the field `x` of the word. -/
def execPlane (n : Nibble) (s : State) : Result := .next { s with planeMask := n }

end Sys2Proof.Machine
end

