-- ==== Sys2Proof/Machine/IndexMemory.lean ====
section
/-! DEFINITION. Index register and memory operations (42_index_memory_ops.md). -/

namespace Sys2Proof.Machine

/-- R300. -/
def execLdI (nnn : Addr12) (s : State) : Result := .next { s with I := zextAddr nnn }

/-- R301. -/
def execAddI (x : Nibble) (s : State) : Result := .next (addIndexOp x s)

/-- R302. -/
def execLdF (x : Nibble) (s : State) : Result := .next { s with I := lowGlyphAddress s.config (s.reg x) }

/-- R303. -/
def execLdHf (x : Nibble) (s : State) : Result := .next { s with I := highGlyphAddress s.config (s.reg x) }

/-- R304. -/
def execLdB (x : Nibble) (s : State) : Result :=
  .next (((s.writeByte (s.indexed 0) (hundreds (s.reg x))).writeByte (s.indexed 1) (tens (s.reg x))).writeByte (s.indexed 2)
    (units (s.reg x)))

/-- `MemWrite(I + k, 1, V[reg k])` for `k` below `n`, ascending (R306). -/
def storeRegs (n : Nat) (reg : Nat → Nibble) (s : State) : State :=
  forUpTo n (fun k t => t.writeByte (t.indexed k) (t.reg (reg k))) s

/-- `V[reg k] <- MemRead(I + k, 1)` for `k` below `n`, ascending (R306). -/
def loadRegs (n : Nat) (reg : Nat → Nibble) (s : State) : State :=
  forUpTo n (fun k t => t.setReg (reg k) (t.readByte (t.indexed k))) s

/-- R307. -/
def execLdMemVx (x : Nibble) (s : State) : Result := .next ((storeRegs (x.toNat + 1) (BitVec.ofNat 4) s).bumpI x)

/-- R308. -/
def execLdVxMem (x : Nibble) (s : State) : Result := .next ((loadRegs (x.toNat + 1) (BitVec.ofNat 4) s).bumpI x)

/-- R309: `FlagRegisterIndex` for `x > 7`, before any write (R504). -/
def execLdRVx (x : Nibble) (s : State) : Result :=
  if x.toNat > 7 then raise (.flagRegisterIndex (encode (.ldRVx x)) s.fetchPc)
  else .next (forUpTo (x.toNat + 1) (fun k t => t.setFlagReg (BitVec.ofNat 3 k) (t.reg (BitVec.ofNat 4 k))) s)

/-- R310: `FlagRegisterIndex` for `x > 7`, before any write (R504). -/
def execLdVxR (x : Nibble) (s : State) : Result :=
  if x.toNat > 7 then raise (.flagRegisterIndex (encode (.ldVxR x)) s.fetchPc)
  else .next (forUpTo (x.toNat + 1) (fun k t => t.setReg (BitVec.ofNat 4 k) (t.flagReg (BitVec.ofNat 3 k))) s)

/-- R311: `I` is unchanged. -/
def execSave (x y : Nibble) (s : State) : Result := .next (storeRegs (rangeDistance x y + 1) (rangeRegister x y) s)

/-- R312: `I` is unchanged. -/
def execLoad (x y : Nibble) (s : State) : Result := .next (loadRegs (rangeDistance x y + 1) (rangeRegister x y) s)

/-- R313: the second word, at the advanced `pc`. -/
def execLdILong (s : State) : Result := .next { s with I := s.readWord s.pc.toNat, pc := s.pc + 2 }

/-- R314. -/
def execAudio (s : State) : Result :=
  .next { s with pattern := Vector.ofFn (fun k => s.readByte (s.indexed k.val)) }

end Sys2Proof.Machine
end

