-- ==== Sys2Proof/Machine/RegisterOps.lean ====
section
/-! DEFINITION. Register operations (41_register_ops.md). -/

namespace Sys2Proof.Machine

/-- R252. -/
def execLdImm (x : Nibble) (nn : Byte) (s : State) : Result := .next (s.setReg x nn)

/-- R253: no flag. -/
def execAddImm (x : Nibble) (nn : Byte) (s : State) : Result := .next (s.setReg x (s.reg x + nn))

/-- R254. -/
def execLdReg (x y : Nibble) (s : State) : Result := .next (s.setReg x (s.reg y))

/-- R255: `VF` is not written but as the destination. -/
def execOr (x y : Nibble) (s : State) : Result := .next (s.setReg x (s.reg x ||| s.reg y))

/-- R256. -/
def execAnd (x y : Nibble) (s : State) : Result := .next (s.setReg x (s.reg x &&& s.reg y))

/-- R257. -/
def execXor (x y : Nibble) (s : State) : Result := .next (s.setReg x (s.reg x ^^^ s.reg y))

/-- R258. -/
def execAddReg (x y : Nibble) (s : State) : Result := .next (flagOp x x y addFlag addResult s)

/-- R259. -/
def execSub (x y : Nibble) (s : State) : Result := .next (flagOp x x y subFlag subResult s)

/-- R260. -/
def execSubn (x y : Nibble) (s : State) : Result := .next (flagOp x x y subnFlag subnResult s)

/-- R262. -/
def execShr (x y : Nibble) (s : State) : Result :=
  .next (flagOp x (shiftSource s.config x y) (shiftSource s.config x y) shrFlag shrResult s)

/-- R264. -/
def execShl (x y : Nibble) (s : State) : Result :=
  .next (flagOp x (shiftSource s.config x y) (shiftSource s.config x y) shlFlag shlResult s)

/-- R265: the byte is a draw (log 6). -/
def execRnd (x : Nibble) (nn : Byte) (s : State) : Result := .next (s.takeByte.setReg x (s.drawnByte &&& nn))

end Sys2Proof.Machine
end

