-- ==== Sys2Proof/Machine/TimerKey.lean ====
section
/-! DEFINITION. Timer and keyboard operations (43_timer_key_ops.md). -/

namespace Sys2Proof.Machine

/-- R350. -/
def execLdVxDt (x : Nibble) (s : State) : Result := .next (s.setReg x s.DT)

/-- R351. -/
def execLdDtVx (x : Nibble) (s : State) : Result := .next { s with DT := s.reg x }

/-- R352: the events are the edges of `ST` crossing zero (R358). -/
def execLdStVx (x : Nibble) (s : State) : Result :=
  .next ((State.emitIf { s with ST := s.reg x } (s.ST == 0 && s.reg x != 0) .beepStart).emitIf
    (s.ST != 0 && s.reg x == 0) .beepStop)

/-- R353: the answer is a draw (log 7). -/
def execSkp (x : Nibble) (s : State) : Result := .next (s.takeKeyAnswer.skipIf (s.keyAnswer (s.reg x)))

/-- R354. -/
def execSknp (x : Nibble) (s : State) : Result := .next (s.takeKeyAnswer.skipIf (!s.keyAnswer (s.reg x)))

/-- R355: `V[x]` is written when the wait ends (R356). -/
def execLdVxK (x : Nibble) (s : State) : Result :=
  .next { s with waitingForKey := true, waitingForKeyRegister := x }

/-- `ResolveKeyWait()`: the whole of a step in the key-wait (R356). -/
def resolveKeyWait (s : State) : State :=
  if s.keyPoll.pressed then
    { s.takeKeyPoll.setReg s.waitingForKeyRegister (s.keyPoll.key.setWidth 8) with waitingForKey := false }
  else s.takeKeyPoll

/-- One timer count: down by one unless it is 0 (R357). -/
def tick (t : Byte) : Byte := if t = 0 then 0 else t - 1

/-- `UpdateTimers()`: the host's timer tick, outside `Step()` (R357). -/
def updateTimers (s : State) : State :=
  State.emitIf { s with DT := tick s.DT, ST := tick s.ST } (s.ST == 1) .beepStop

end Sys2Proof.Machine
end

