-- ==== Sys2Proof/Machine/Fetch.lean ====
section
/-! DEFINITION. Helpers of the fetch: placing an instruction word where the next step fetches it. -/

namespace Sys2Proof.Machine

/-- The `pc` at which the next step fetches: the same `pc`, made even where an odd one may not be fetched (log 18). -/
def fetchablePc (s : State) : Word := if s.fetchMisaligned then s.pc - 1 else s.pc

/-- `k` bytes of a table word, in memory order, stored from the address `a` on. -/
def storeTableWord (nbits w k a : Nat) (s : State) : State :=
  forUpTo k (fun j t => t.writeByte (a + j) (tableByte nbits w j)) s

/-- The bytes of the instruction a table word begins: 4 for `LD I,long`, else 2 (30_encoding.md R115). -/
def tableWordLength (v : Variant) (nbits w : Nat) : Nat :=
  instrLength v (wordOfBytes (tableByte nbits w 0) (tableByte nbits w 1))

/-- The state with no key-wait pending, a fetchable `pc`, and the instruction of a table word stored at it (log 18). -/
def placeTableWord (nbits w : Nat) (s : State) : State :=
  storeTableWord nbits w (tableWordLength s.config.variant nbits w) (fetchablePc s).toNat
    { s with waitingForKey := false, pc := fetchablePc s }

end Sys2Proof.Machine
end

