-- ==== Sys2Proof/Machine/Step.lean ====
section
/-! DEFINITION. One `Step()` call (30_encoding.md R110). -/

namespace Sys2Proof.Machine

/-- `Step()` (R110): the key-wait first, then the alignment check (R111), fetch (R112), `pc` advance (R114), decode (R120),
execute. -/
def step (s : State) : Host.Outcome State Fault Refusal :=
  if s.waitingForKey then .next (resolveKeyWait s)
  else if s.fetchMisaligned then raise (.misalignedInstructionFetch s.pc)
  else
    match decode s.config.variant s.fetchWord with
    | .ok i => exec i s.advancePc
    | .error e => raise (decodeFault e s.fetchWord s.pc)

/-- The state with an instruction word of the opcode table stored where `step` fetches its next instruction (log 18). -/
def State.withFetchWord (s : State) (nbits w : Nat) : State := placeTableWord nbits w s

end Sys2Proof.Machine
end

