-- ==== Sys2Proof/Machine/HostCalls.lean ====
section
/-! DEFINITION. The host's calls other than `Step()` (10_state.md R60) and the ROM loader (70_reset_and_hazards.md R555, R556). -/

namespace Sys2Proof.Machine

/-- The calls of the interface (10_state.md R60). -/
inductive HostCall where
  | initialise
  | step
  | updateTimers
  deriving DecidableEq, Repr

/-- `Initialise()` (R550): it emits no event; the host's queued draws and the configuration stay (R551). -/
def initialiseCall (s : State) : State :=
  { State.initialise s.config with events := s.events, inputs := s.inputs }

/-- One call. `UpdateTimers()` and `Initialise()` never fault (10_state.md R62; 60_exceptions.md R500). -/
def call (c : HostCall) (s : State) : Result :=
  match c with
  | .initialise => .next (initialiseCall s)
  | .step => step s
  | .updateTimers => .next (updateTimers s)

/-- The signature "HPHP48-A" (R556). -/
def romSignature : List Byte := [0x48, 0x50, 0x48, 0x50, 0x34, 0x38, 0x2D, 0x41]

/-- The payload of a ROM file: the file less its first 13 bytes where it begins with the signature (R556). -/
def romPayload (rom : List Byte) : List Byte := if romSignature.isPrefixOf rom then rom.drop 13 else rom

/-- The external loader: the payload's bytes go to `LOAD_ADDRESS` on (R555). None where a byte would lie beyond the top of
memory, which is the loader's concern (93_implementation_defined.md U25; log 23). -/
def loadRom (rom : List Byte) (s : State) : Option State :=
  if loadAddress + (romPayload rom).length ≤ memorySize s.config then
    some (forUpTo (romPayload rom).length (fun k t => t.writeByte (loadAddress + k) ((romPayload rom).getD k 0)) s)
  else none

end Sys2Proof.Machine
end

