-- ==== Sys2Proof/Safety.lean ====
section
/-! DEFINITION. The invariant of the machine's states and what counts as a safe run, in the terms the statements use. -/

namespace Sys2Proof

open Machine

/-- The cells of a plane at the current resolution (10_state.md R46, R48). -/
def cellCount (s : State) : Nat := s.width * s.height

/-- The invariant of the states `Initialise()` leads to: memory in canonical form (log 14); `NUM_PLANES` planes (R47), none with
a lit cell at or beyond `W*H` (R50); low resolution under CHIP8 (R48); `planeMask` 1 but under XOCHIP (R49); the flag registers
0 under CHIP8 (R39) and the audio pattern 0 but under XOCHIP (R43). -/
structure Inv (s : State) : Prop where
  memory_wf : Memory.wf s.config s.memory = true
  plane_count : s.planes.length = numPlanes s.config
  plane_cells : ∀ pl ∈ s.planes, ∀ i, cellCount s ≤ i → Plane.cell pl i = false
  chip8_low : s.config.variant = .chip8 → s.highResolution = false
  mask_one : s.config.variant ≠ .xochip → s.planeMask = 1
  chip8_flags : s.config.variant = .chip8 → s.R = Vector.replicate 8 0
  pattern_zero : s.config.variant ≠ .xochip → s.pattern = Vector.replicate 16 0

/-- `t` is reached from `s` by calls that raise no fault, `Step()` and `UpdateTimers()` in any order and ratio
(70_reset_and_hazards.md R564). A claim about a run has no fault as its premise (60_exceptions.md R508). -/
inductive Reaches : State → State → Prop where
  | refl (s : State) : Reaches s s
  | tail {s t u : State} (c : HostCall) : Reaches s t → c ≠ .initialise → call c t = .next u → Reaches s u

/-- The states of a run that is still going or ends here: reached, with no fault, through states with `finished` false
(70_reset_and_hazards.md R558). -/
inductive RunTo : State → State → Prop where
  | refl (s : State) : RunTo s s
  | tail {s t u : State} (c : HostCall) :
      RunTo s t → t.finished = false → c ≠ .initialise → call c t = .next u → RunTo s u

/-- A run ends at the first state with `finished` true (R558). -/
def RunEndsAt (s t : State) : Prop := RunTo s t ∧ t.finished = true

end Sys2Proof
end

