-- ==== Sys2Proof/Certificates/Slice0/Obligations.lean ====
section
/-! DEFINITION. The statements for the provers. Each docstring names the rule of spec/ it formalises; a statement that rests on a
decision the spec marks as its own (92_eei_decisions.md) or on a choice of the model (a log entry) says so. -/

open Sys2Proof
open Sys2Proof.Machine

namespace Sys2Proof.Claims

/-! ### The spec's words, in natural numbers, as the statements use them -/

/-- `V[r]` as a number (00_scope.md R8: unsigned). -/
def reg (s : State) (r : Nibble) : Nat := (s.reg r).toNat

/-- The registers after `FlagOp(x, s1, s2, Flag, Result)` in the order of FLAG_WRITE_ORDER (41_register_ops.md R251). -/
def FlaggedRegs (s t : State) (x s1 s2 : Nibble) (flag result : Nat → Nat → Nat) : Prop :=
  match s.config.flagWriteOrder with
  | .flagFirst =>
    ∀ r, reg t r =
      (let u := fun q => if q = 15 then flag (reg s s1) (reg s s2) else reg s q
       if r = x then result (u s1) (u s2) else u r)
  | .flagLast =>
    ∀ r, reg t r =
      if r = 15 then flag (reg s s1) (reg s s2) else if r = x then result (reg s s1) (reg s s2) else reg s r

/-- `s = y` under CHIP8, `s = x` under SCHIP and XOCHIP (R261). -/
def shiftFrom (s : State) (x y : Nibble) : Nibble := if s.config.variant = .chip8 then y else x

/-- The two addresses are one byte of the space (20_memory.md R82). -/
def SameByte (s : State) (a b : Nat) : Prop :=
  match s.config.addressWrap with
  | .mask => a % memorySize s.config = b % memorySize s.config
  | .clamp => min a (memorySize s.config - 1) = min b (memorySize s.config - 1)

/-- The bytes `I`, `I+1`, …, `I+n-1` of `s` hold `v 0`, `v 1`, … in `t`, a later byte over an earlier one where two of the
addresses are one byte, and every other byte is as in `s`. -/
def StoredAtI (s t : State) (n : Nat) (v : Nat → Nat) : Prop :=
  (∀ a k, k < n → SameByte s a (s.I.toNat + k) → (∀ j, k < j → j < n → ¬ SameByte s a (s.I.toNat + j)) →
      (t.readByte a).toNat = v k) ∧
    (∀ a, (∀ k, k < n → ¬ SameByte s a (s.I.toNat + k)) → t.readByte a = s.readByte a)

/-- `I` after a save or load of `V[0]..V[x]` (42_index_memory_ops.md R305). -/
def indexAfter (s : State) (x : Nibble) : Nat :=
  if s.config.variant = .chip8 ∧ s.config.compatibilityMode = false then (s.I.toNat + x.toNat + 1) % 65536 else s.I.toNat

/-- The `k`-th register of the range `x` to `y` (R311, R312). -/
def rangeReg (x y : Nibble) (k : Nat) : Nibble :=
  BitVec.ofNat 4 (if x.toNat ≤ y.toNat then x.toNat + k else x.toNat - k)

/-- `|x - y| + 1`, the length of the range. -/
def rangeLength (x y : Nibble) : Nat := (if x.toNat ≤ y.toNat then y.toNat - x.toNat else x.toNat - y.toNat) + 1

/-- `Selected(p)` (44_display_engine.md R401). -/
def Selected (s : State) (p : Nat) : Prop := p < numPlanes s.config ∧ s.planeMask.getLsbD p = true

/-- The pixel at column `X`, row `Y` of plane `p` (10_state.md R51). -/
def pixel (s : State) (p X Y : Nat) : Bool := Plane.cell (s.plane p) (Y * s.width + X)

/-- Bit of sprite row `r`, column `c`, of sprite data at `a`, bit 7 the leftmost (R403, R404). -/
def spriteSet (s : State) (a width r c : Nat) : Prop :=
  (s.readByte (a + r * (width / 8) + c / 8)).getLsbD (7 - c % 8) = true

/-- Where plane `p`'s data begins: unselected planes consume none (R402). -/
def spriteData (s : State) (a width height p : Nat) : Nat :=
  a + height * (width / 8) * ((List.range p).countP fun q => s.selected q)

/-- Sprite row `r` collides: a set bit at or beyond the bottom edge, or on a lit pixel of the screen (R405 to R407). -/
def RowHits (s : State) (p a dx dy width r : Nat) : Prop :=
  ∃ c, c < width ∧ spriteSet s a width r c ∧
    (s.height ≤ dy + r ∨ (dy + r < s.height ∧ dx + c < s.width ∧ pixel s p (dx + c) (dy + r) = true))

open Classical in
/-- The collision row count over the selected planes (R402, R405). -/
noncomputable def collisions (s : State) (a dx dy width height : Nat) : Nat :=
  ((List.range (numPlanes s.config)).map fun p =>
    if Selected s p then
      (List.range height).countP fun r => decide (RowHits s p (spriteData s a width height p) dx dy width r)
    else 0).sum

/-- The draw origin, reduced where DRAW_ORIGIN_WRAP holds (R409). -/
def origin (s : State) (v extent : Nat) : Nat := if s.config.drawOriginWrap then v % extent else v

/-- `t` is `s` after a sprite of `width` by `height` is drawn at `(V[x], V[y])` from `I`: pixel by pixel the XOR of the sprite,
clipped at the edges, on the selected planes only; `VF` the collision row count; everything else as before (R402 to R409). -/
def SpriteDrawn (s t : State) (x y : Nibble) (width height : Nat) : Prop :=
  let dx := origin s (reg s x) s.width
  let dy := origin s (reg s y) s.height
  (∀ p, p < numPlanes s.config → Selected s p → ∀ X Y, X < s.width → Y < s.height →
      (pixel t p X Y = true ↔
        ¬ (pixel s p X Y = true ↔
          (dx ≤ X ∧ X < dx + width ∧ dy ≤ Y ∧ Y < dy + height ∧
            spriteSet s (spriteData s s.I.toNat width height p) width (Y - dy) (X - dx))))) ∧
    (∀ p, p < numPlanes s.config → ¬ Selected s p → t.plane p = s.plane p) ∧
    (∀ r, reg t r = if r = 15 then collisions s s.I.toNat dx dy width height else reg s r) ∧
    t.planes.length = s.planes.length ∧ t = { s with planes := t.planes, V := t.V }

/-- A register that the operation names as its destination. -/
def IsDestination : Instr → Nibble → Prop
  | .ldImm x _, r | .addImm x _, r | .ldReg x _, r | .or x _, r | .and x _, r | .xor x _, r | .addReg x _, r | .sub x _, r
  | .shr x _, r | .subn x _, r | .shl x _, r | .rnd x _, r | .ldVxDt x, r => r = x
  | .ldVxMem x, r | .ldVxR x, r => r.toNat ≤ x.toNat
  | .load x y, r => min x.toNat y.toNat ≤ r.toNat ∧ r.toNat ≤ max x.toNat y.toNat
  | _, _ => False

end Sys2Proof.Claims

open Sys2Proof.Claims

/-! ### Decoding -/

/-- 30_encoding.md §3 (R118, R120 to R123): decoding the word of an operation the variant has gives that operation back, with
every operand. The encoder is the model's own (log 19). -/
def Obligations.DecodeOfEncodeIsTheInstruction : Prop :=
  ∀ (v : Variant) (i : Instr), i.wellFormed v = true → decode v (encode i) = .ok i

/-- 30_encoding.md §3, §4 (R125, R127): a word that decodes is the word of the operation it decodes to, and the variant has that
operation: no two words of a variant mean one operation. The encoder is the model's own (log 19). -/
def Obligations.EncodeOfDecodeIsTheWord : Prop :=
  ∀ (v : Variant) (w : Word) (i : Instr), decode v w = .ok i → i.wellFormed v = true ∧ encode i = w

/-- 30_encoding.md R126 (by the spec's decision D10): a rejected word is a variant violation exactly if some variant decodes it,
and an illegal instruction exactly if none does. -/
def Obligations.RejectedWordsAreClassified : Prop :=
  ∀ (v : Variant) (w : Word),
    (decode v w = .error .variantViolation ↔ (∀ i, decode v w ≠ .ok i) ∧ ∃ u i, decode u w = .ok i) ∧
      (decode v w = .error .illegalInstruction ↔ ∀ u i, decode u w ≠ .ok i)

/-- 00_scope.md R2, 30_encoding.md R120: XOCHIP decodes what SCHIP decodes, SCHIP what CHIP8 decodes, unchanged but for `DRW` with
`n = 0`, which `DRW16` takes. -/
def Obligations.HigherVariantsExtendLowerOnes : Prop :=
  ∀ (w : Word) (i : Instr),
    (decode .schip w = .ok i → decode .xochip w = .ok i) ∧
      (decode .chip8 w = .ok i →
        if ∃ x y, i = .drw x y 0 then ∃ x y, i = .drw x y 0 ∧ decode .schip w = .ok (.drw16 x y)
        else decode .schip w = .ok i)

/-- 30_encoding.md R124: the layers decode exactly the words the fifty rows of opcode_table.json accept, each to the operation of
that row. -/
def Obligations.LayersAgreeWithTheOpcodeTable : Prop :=
  opcodeTable.length = 50 ∧
    ∀ (l : Layer) (w : Word),
      (∀ i, layerDecode l w = some i → ∃ r ∈ opcodeTable, r.layer = l ∧ r.mnemonic = i.mnemonic ∧ r.accepts w = true) ∧
        (∀ r ∈ opcodeTable, r.layer = l → r.accepts w = true →
          ∃ i, layerDecode l w = some i ∧ i.mnemonic = r.mnemonic)

/-- 30_encoding.md R120: within one layer no two rows match the same word. -/
def Obligations.RowsOfOneLayerNeverOverlap : Prop :=
  ∀ r ∈ opcodeTable, ∀ q ∈ opcodeTable, r.layer = q.layer →
    ∀ w : Word, r.accepts w = true → q.accepts w = true → r = q

/-- Words of 30_encoding.md R121 to R123 and 95_test_vectors.md, written out, decode to the operations they stand for: a sanity
check of the decoder. -/
def Obligations.WrittenOutWordsDecode : Prop :=
  decode .chip8 0x00E0 = .ok .cls ∧ decode .chip8 0x2300 = .ok (.call 0x300) ∧ decode .chip8 0x3242 = .ok (.seImm 2 0x42) ∧
    decode .chip8 0x8126 = .ok (.shr 1 2) ∧ decode .chip8 0xD005 = .ok (.drw 0 0 5) ∧ decode .chip8 0xF265 = .ok (.ldVxMem 2) ∧
    decode .chip8 0xE0A1 = .ok (.sknp 0) ∧ decode .chip8 0xF30A = .ok (.ldVxK 3) ∧ decode .schip 0x00C4 = .ok (.scdown 4) ∧
    decode .schip 0xF175 = .ok (.ldRVx 1) ∧ decode .schip 0xD120 = .ok (.drw16 1 2) ∧ decode .chip8 0xD120 = .ok (.drw 1 2 0) ∧
    decode .xochip 0x5312 = .ok (.save 3 1) ∧ decode .xochip 0xF000 = .ok .ldILong ∧ decode .xochip 0xF301 = .ok (.plane 3) ∧
    decode .xochip 0xFFFF = .error .illegalInstruction ∧ decode .chip8 0x00FF = .error .variantViolation

/-! ### The step -/

/-- 30_encoding.md R110, R112, R114: in `Running`, at a fetchable `pc`, where the big-endian word at `pc` decodes to `i`, the step
is `i` executed with `pc` advanced by 2. The advance before decoding is the spec's decision D7, D5. -/
def Obligations.StepRunsTheDecodedInstruction : Prop :=
  ∀ (s : State) (i : Instr),
    s.waitingForKey = false → (s.pc.toNat % 2 = 0 ∨ s.config.allowMisaligned = true) →
      decode s.config.variant (s.readByte s.pc.toNat ++ s.readByte (s.pc.toNat + 1)) = .ok i →
        step s = exec i { s with pc := s.pc + 2 }

/-- 60_exceptions.md R500, R503, R504, R506 (by the spec's decisions D7, D10, D19): when a step faults, with which fault, in which
order of the checks, and in which state. -/
def Obligations.StepFaultsExactlyAsListed : Prop :=
  ∀ (s : State) (r : Fault),
    let odd := s.pc.toNat % 2 = 1 ∧ s.config.allowMisaligned = false
    let w := s.readByte s.pc.toNat ++ s.readByte (s.pc.toNat + 1)
    (step s = .fault r ↔
      s.waitingForKey = false ∧
        ((odd ∧ r = .misalignedInstructionFetch s.pc) ∨
          (¬ odd ∧ decode s.config.variant w = .error .illegalInstruction ∧ r = .illegalInstruction w s.pc) ∨
          (¬ odd ∧ decode s.config.variant w = .error .variantViolation ∧ r = .variantViolation w s.pc) ∨
          (¬ odd ∧ r = .flagRegisterIndex w s.pc ∧
            ∃ x : Nibble, 7 < x.toNat ∧
              (decode s.config.variant w = .ok (.ldRVx x) ∨ decode s.config.variant w = .ok (.ldVxR x))))) ∧
      (step s = .fault r → stateAtRaise r s = if odd then s else { s with pc := s.pc + 2 })

/-- 60_exceptions.md R503: an odd `pc` where misaligned fetches are not allowed ends the step with `MisalignedInstructionFetch`,
whatever memory holds, before the fetch and the decode. -/
def Obligations.MisalignedFetchFaultsBeforeDecode : Prop :=
  ∀ (s : State) (m : List Host.Cell),
    s.waitingForKey = false → s.pc.toNat % 2 = 1 → s.config.allowMisaligned = false →
      step { s with memory := m } = .fault (.misalignedInstructionFetch s.pc)

/-- 60_exceptions.md R505: "all defined opcodes are total functions over valid state" but for the model fault of R504: every
decoded operation completes from every state. -/
def Obligations.EveryInstructionCompletes : Prop :=
  ∀ (i : Instr) (s : State),
    (∀ x : Nibble, 7 < x.toNat → i ≠ .ldRVx x ∧ i ≠ .ldVxR x) → ∃ t, exec i s = .next t

/-- 43_timer_key_ops.md R356, 30_encoding.md R110 (D16, D43): a step in the key-wait never fetches and never faults; it writes the
register and ends the wait if the poll reports a key, and changes nothing else if it does not. The poll's answer is a draw (log 7). -/
def Obligations.KeyWaitStepPollsTheKeyboard : Prop :=
  ∀ s : State, s.waitingForKey = true →
    ∃ t, step s = .next t ∧
      (s.keyPoll.pressed = true →
        t.waitingForKey = false ∧
          ∀ r, reg t r = if r = s.waitingForKeyRegister then s.keyPoll.key.toNat else reg s r) ∧
      (s.keyPoll.pressed = false → t.waitingForKey = true ∧ t.V = s.V) ∧
      t = { s with V := t.V, waitingForKey := t.waitingForKey, inputs := t.inputs }

/-- 10_state.md R45: the machine starts in `Running`; the key-wait is entered only by `LD Vx,K` and left only when the keyboard
reports a pressed key; a step in it polls once and fetches nothing: what memory and `pc` hold has no part in it. -/
def Obligations.KeyWaitIsEnteredOnlyByLdVxK : Prop :=
  (∀ c : Config, (State.initialise c).waitingForKey = false) ∧
  ∀ s t : State, step s = .next t →
    (s.waitingForKey = false →
      (t.waitingForKey = true ↔
        ∃ x, decode s.config.variant (s.readByte s.pc.toNat ++ s.readByte (s.pc.toNat + 1)) = .ok (.ldVxK x))) ∧
    (s.waitingForKey = true →
      (t.waitingForKey = false ↔ s.keyPoll.pressed = true) ∧
      t.inputs = { s.inputs with keyPolls := s.inputs.keyPolls.tail, taken := s.inputs.taken + 1 } ∧
      ∀ (m : List Host.Cell) (a : Word),
        step { s with memory := m, pc := a } = .next { t with memory := m, pc := a })

/-- 10_state.md R42: only `EXIT` writes `finished`, setting it, and nothing reads it: a step from two states that differ in it
only ends the same way, in states that differ in it only. -/
def Obligations.FinishedIsWrittenByExitOnlyAndNeverRead : Prop :=
  (∀ (i : Instr) (s t : State), exec i s = .next t → t.finished = if i = .exit then true else s.finished) ∧
  ∀ (s : State) (f : Bool),
    match step s, step { s with finished := f } with
    | .next t, .next u => ∃ f', u = { t with finished := f' }
    | .fault r, .fault q => r = q
    | _, _ => False

/-- 10_state.md R43 (D36): the audio pattern is read by no instruction: a step from two states that differ in it only ends the
same way, in states that differ in it only. -/
def Obligations.PatternIsNeverRead : Prop :=
  ∀ (s : State) (p : Vector Byte 16),
    match step s, step { s with pattern := p } with
    | .next t, .next u => ∃ p', u = { t with pattern := p' }
    | .fault r, .fault q => r = q
    | _, _ => False

/-- 43_timer_key_ops.md R358 (D34): over a step, and over a timer tick, a beep event is raised exactly at an edge of `ST` across
zero. The events of a call are those it adds to the event output (log 8). -/
def Obligations.BeepEventsAreTheEdgesOfST : Prop :=
  (∀ s t : State, step s = .next t →
    (.beepStart ∈ eventsRaised s t ↔ s.ST = 0 ∧ t.ST ≠ 0) ∧ (.beepStop ∈ eventsRaised s t ↔ s.ST ≠ 0 ∧ t.ST = 0)) ∧
  (∀ s : State, .beepStart ∉ eventsRaised s (updateTimers s) ∧
    (.beepStop ∈ eventsRaised s (updateTimers s) ↔ s.ST ≠ 0 ∧ (updateTimers s).ST = 0))

/-! ### Invariant, reset, host calls -/

/-- 10_state.md R47, R48, R49, R50, R43, R39, R53, 20_memory.md R80: from every state that meets the invariant, reachable or not, a step
that ends in a next state keeps it, and keeps the configuration. The canonical form of memory is the model's (log 14). -/
def Obligations.EveryStepKeepsTheInvariant : Prop :=
  ∀ s t : State, Inv s → step s = .next t → Inv t ∧ t.config = s.config

/-- The same for the host's other calls (43_timer_key_ops.md R357, 70_reset_and_hazards.md R550) and for the loader (R555), so that the
launch of R557, `Initialise()` and then the load, leads to states with the invariant (log 12). -/
def Obligations.HostCallsKeepTheInvariant : Prop :=
  ∀ s : State, Inv s →
    (Inv (updateTimers s) ∧ (updateTimers s).config = s.config) ∧
      (Inv (initialiseCall s) ∧ (initialiseCall s).config = s.config) ∧
      ∀ (rom : List Byte) (t : State), loadRom rom s = some t → Inv t ∧ t.config = s.config

/-- `Initialise()` establishes the invariant under every configuration, the one of `State.reset` among them. -/
def Obligations.ResetMeetsTheInvariant : Prop :=
  (∀ c : Config, Inv (State.initialise c)) ∧ Inv State.reset

/-- 10_state.md R52, 70_reset_and_hazards.md R550 to R552 (zero for "resets" is the spec's decision D53; D35 to D38, D54): the value of
every piece of state after `Initialise()`, called in any state, under every configuration with a legal font placement. The call
raises no fault, emits no event, and leaves the configuration and the queued draws (log 8). The fresh machine is one such state,
with no event yet. -/
def Obligations.InitialiseGivesTheResetValues : Prop :=
  (∀ s : State, configWf s.config = true →
    ∃ t, call .initialise s = .next t ∧ t.config = s.config ∧ t.events = s.events ∧ t.inputs = s.inputs ∧
      (∀ r, reg t r = 0) ∧ t.I.toNat = 0 ∧ t.pc.toNat = 0x200 ∧ (∀ k, (t.stackEntry k).toNat = 0) ∧ t.sp.toNat = 0 ∧
      t.DT.toNat = 0 ∧ t.ST.toNat = 0 ∧ (∀ k, (t.flagReg k).toNat = 0) ∧ t.waitingForKey = false ∧
      t.waitingForKeyRegister.toNat = 0 ∧ t.finished = false ∧ (∀ k : Fin 16, (t.pattern[k]).toNat = 0) ∧
      t.planes.length = (if s.config.variant = .xochip then 2 else 1) ∧ (∀ p i, Plane.cell (t.plane p) i = false) ∧
      t.highResolution = false ∧ t.planeMask.toNat = 1 ∧
      (∀ k, k < 80 → some (t.readByte (s.config.lowFontBase + k)) = s.config.lowFont[k]?) ∧
      (∀ k, k < 160 → some (t.readByte (s.config.highFontBase + k)) = s.config.highFont[k]?) ∧
      (∀ a, a < memorySize s.config → ¬ (s.config.lowFontBase ≤ a ∧ a < s.config.lowFontBase + 80) →
        ¬ (s.config.highFontBase ≤ a ∧ a < s.config.highFontBase + 160) → t.readByte a = 0)) ∧
  ∀ c : Config, (State.initialise c).config = c ∧ (State.initialise c).events = [] ∧
    call .initialise (State.initialise c) = .next (State.initialise c)

/-- 70_reset_and_hazards.md R555, R556 (D52): the loader copies the ROM, less a 13-byte header where the file begins with the
signature, to 0x200 on, and writes nothing else. A ROM that does not fit is refused (log 23). -/
def Obligations.LoaderPlacesThePayload : Prop :=
  ∀ (rom : List Byte) (s : State),
    let payload := if rom.take 8 = [0x48, 0x50, 0x48, 0x50, 0x34, 0x38, 0x2D, 0x41] then rom.drop 13 else rom
    0x200 + payload.length ≤ memorySize s.config →
      ∃ t, loadRom rom s = some t ∧ (∀ k, k < payload.length → some (t.readByte (0x200 + k)) = payload[k]?) ∧
        (∀ a, a < memorySize s.config → (a < 0x200 ∨ 0x200 + payload.length ≤ a) → t.readByte a = s.readByte a) ∧
        t = { s with memory := t.memory }

/-- 43_timer_key_ops.md R357 (D34): the timer tick. -/
def Obligations.UpdateTimersCountsDown : Prop :=
  ∀ s : State, ∃ t, call .updateTimers s = .next t ∧
    t.DT.toNat = s.DT.toNat - 1 ∧ t.ST.toNat = s.ST.toNat - 1 ∧
      t.events = s.events ++ (if s.ST.toNat = 1 then [.beepStop] else []) ∧
      t = { s with DT := t.DT, ST := t.ST, events := t.events }

/-! ### Frames -/

/-- 20_memory.md R81: only `LD B,Vx`, `LD [I],Vx` and `SAVE` write memory: after any other operation every byte reads as before. -/
def Obligations.OtherInstructionsLeaveMemory : Prop :=
  ∀ (i : Instr) (s t : State), exec i s = .next t → i.mnemonic ∉ ["LD_B", "LD_MEM_VX", "SAVE"] →
    ∀ a, t.readByte a = s.readByte a

/-- 20_memory.md R81, R83, R87; 42_index_memory_ops.md R304, R307, R311: the three storing operations leave every byte outside the
3, `x + 1` or `|x-y| + 1` bytes they store from `I` on, and write no register. -/
def Obligations.StoresLeaveEveryOtherByte : Prop :=
  ∀ (x y : Nibble) (s : State),
    (∃ t, exec (.ldB x) s = .next t ∧ t.V = s.V ∧
      ∀ a, (∀ k, k < 3 → addr s.config a ≠ addr s.config (s.indexed k)) → t.readByte a = s.readByte a) ∧
    (∃ t, exec (.ldMemVx x) s = .next t ∧ t.V = s.V ∧
      ∀ a, (∀ k, k < x.toNat + 1 → addr s.config a ≠ addr s.config (s.indexed k)) → t.readByte a = s.readByte a) ∧
    (∃ t, exec (.save x y) s = .next t ∧ t.V = s.V ∧
      ∀ a, (∀ k, k < rangeDistance x y + 1 → addr s.config a ≠ addr s.config (s.indexed k)) → t.readByte a = s.readByte a)

/-- 10_state.md R31, R32 (D13): an operation changes no general register but its destinations and, for the eight flag-writing
operations, `VF`. -/
def Obligations.OnlyDestinationsAndVFChange : Prop :=
  ∀ (i : Instr) (s t : State) (r : Nibble), exec i s = .next t → ¬ IsDestination i r →
    ¬ (r = 15 ∧ i.mnemonic ∈ ["ADD_REG", "SUB", "SUBN", "SHR", "SHL", "ADD_I", "DRW", "DRW16"]) → t.reg r = s.reg r

/-- 10_state.md R34 to R43, R48, R49, R53, R67: each other piece of state is changed by the operations the spec names for it and by no
other. `pc` is the advanced one (30_encoding.md R114). -/
def Obligations.EachFieldHasItsWriters : Prop :=
  ∀ (i : Instr) (s t : State), exec i s = .next t →
    t.config = s.config ∧
      (i.mnemonic ∉ ["LD_I", "ADD_I", "LD_F", "LD_HF", "LD_I_LONG"] →
        ¬ (i.mnemonic ∈ ["LD_MEM_VX", "LD_VX_MEM"] ∧ s.config.variant = .chip8 ∧ s.config.compatibilityMode = false) →
          t.I = s.I) ∧
      (i.mnemonic ∉ ["RET", "JP", "CALL", "JP_V0", "SE_IMM", "SNE_IMM", "SE_REG", "SNE_REG", "SKP", "SKNP", "LD_I_LONG"] →
        t.pc = s.pc) ∧
      (i.mnemonic ≠ "CALL" → t.stack = s.stack) ∧ (i.mnemonic ∉ ["CALL", "RET"] → t.sp = s.sp) ∧
      (i.mnemonic ≠ "LD_DT_VX" → t.DT = s.DT) ∧ (i.mnemonic ≠ "LD_ST_VX" → t.ST = s.ST) ∧
      (i.mnemonic ≠ "LD_R_VX" → t.R = s.R) ∧
      (i.mnemonic ≠ "LD_VX_K" →
        t.waitingForKey = s.waitingForKey ∧ t.waitingForKeyRegister = s.waitingForKeyRegister) ∧
      (i.mnemonic ≠ "EXIT" → t.finished = s.finished) ∧ (i.mnemonic ≠ "AUDIO" → t.pattern = s.pattern) ∧
      (i.mnemonic ∉ ["CLS", "DRW", "DRW16", "SCDOWN", "SCUP", "SCRIGHT", "SCLEFT", "LOW", "HIGH"] → t.planes = s.planes) ∧
      (i.mnemonic ∉ ["LOW", "HIGH"] → t.highResolution = s.highResolution) ∧
      (i.mnemonic ≠ "PLANE" → t.planeMask = s.planeMask) ∧
      (i.mnemonic ∉ ["LD_ST_VX", "LOW", "HIGH"] → t.events = s.events) ∧
      (i.mnemonic ∉ ["RND", "SKP", "SKNP"] → t.inputs = s.inputs)

/-- 20_memory.md R94, 70_reset_and_hazards.md R561 (D40): a store over the next instruction, by any of the three storing operations, is
what the next step fetches, a byte it does not store to as before. Under Clamp the premise keeps the stored bytes below the top,
where later ones would fall on the same byte (20_memory.md R82). -/
def Obligations.StoreOverTheNextInstructionIsFetched : Prop :=
  ∀ (s : State) (x y : Nibble),
    (s.config.addressWrap = .mask ∨ s.pc.toNat + 16 ≤ memorySize s.config) → s.I = s.pc →
      (∃ t, exec (.ldMemVx x) s = .next t ∧ t.pc = s.pc ∧
        t.readByte t.pc.toNat ++ t.readByte (t.pc.toNat + 1) =
          s.reg 0 ++ (if x.toNat = 0 then s.readByte (s.pc.toNat + 1) else s.reg 1)) ∧
      (∃ t, exec (.ldB x) s = .next t ∧ t.pc = s.pc ∧
        (t.readByte t.pc.toNat ++ t.readByte (t.pc.toNat + 1)).toNat = 256 * (reg s x / 100) + reg s x / 10 % 10) ∧
      (∃ t, exec (.save x y) s = .next t ∧ t.pc = s.pc ∧
        t.readByte t.pc.toNat ++ t.readByte (t.pc.toNat + 1) =
          s.reg x ++ (if x = y then s.readByte (s.pc.toNat + 1) else s.reg (rangeReg x y 1)))

/-! ### Control flow (40_control_flow.md) -/

/-- R202: `pc <- zext_16(nnn)`, and nothing else changes. -/
def Obligations.JpSetsPc : Prop :=
  ∀ (nnn : Addr12) (s : State), ∃ t, exec (.jp nnn) s = .next t ∧ t.pc.toNat = nnn.toNat ∧ t = { s with pc := t.pc }

/-- R201, R203, 10_state.md R37 (the push and pop order is the spec's decision D14): `CALL` stores the advanced `pc` at `sp` and
counts `sp` up modulo 16; `RET` counts down modulo 16 and loads. Neither faults at either end of the stack. -/
def Obligations.CallPushesAndRetPops : Prop :=
  ∀ (nnn : Addr12) (s : State),
    (∃ t, exec (.call nnn) s = .next t ∧ t.sp.toNat = (s.sp.toNat + 1) % 16 ∧ t.pc.toNat = nnn.toNat ∧
      (∀ k, t.stackEntry k = if k = s.sp then s.pc else s.stackEntry k) ∧
      t = { s with stack := t.stack, sp := t.sp, pc := t.pc }) ∧
    (∃ t, exec .ret s = .next t ∧ t.sp.toNat = (s.sp.toNat + 15) % 16 ∧ t.pc = s.stackEntry t.sp ∧
      t = { s with sp := t.sp, pc := t.pc })

/-- R200, R204 to R207 (a skip of one word in every variant is the spec's decision D32): the four compares skip as they say, and
change `pc` only. -/
def Obligations.ConditionalSkips : Prop :=
  ∀ (x y : Nibble) (nn : Byte) (s : State),
    (∃ t, exec (.seImm x nn) s = .next t ∧ t = { s with pc := t.pc } ∧
      t.pc.toNat = (s.pc.toNat + if reg s x = nn.toNat then 2 else 0) % 65536) ∧
    (∃ t, exec (.sneImm x nn) s = .next t ∧ t = { s with pc := t.pc } ∧
      t.pc.toNat = (s.pc.toNat + if reg s x = nn.toNat then 0 else 2) % 65536) ∧
    (∃ t, exec (.seReg x y) s = .next t ∧ t = { s with pc := t.pc } ∧
      t.pc.toNat = (s.pc.toNat + if reg s x = reg s y then 2 else 0) % 65536) ∧
    (∃ t, exec (.sneReg x y) s = .next t ∧ t = { s with pc := t.pc } ∧
      t.pc.toNat = (s.pc.toNat + if reg s x = reg s y then 0 else 2) % 65536)

/-- R209 (JUMP_QUIRK is an open parameter, D11): the target is `nnn` plus `V0`, or plus the register its top nibble names; the sum
never wraps. -/
def Obligations.JpV0AddsTheQuirkRegister : Prop :=
  ∀ (nnn : Addr12) (s : State), ∃ t, exec (.jpV0 nnn) s = .next t ∧ t = { s with pc := t.pc } ∧
    t.pc.toNat = nnn.toNat +
      if s.config.variant = .chip8 ∨ s.config.jumpQuirk = .v0 then reg s 0 else reg s (BitVec.ofNat 4 (nnn.toNat / 256))

/-- R210 (D38): `finished <- true`, and nothing else changes. -/
def Obligations.ExitSetsFinished : Prop :=
  ∀ s : State, exec .exit s = .next { s with finished := true }

/-! ### Register operations (41_register_ops.md) -/

/-- R252, R253, R254: load immediate, add immediate modulo 256 with no flag, copy; nothing but `V[x]` changes. -/
def Obligations.LoadAddImmediateAndCopy : Prop :=
  ∀ (x y : Nibble) (nn : Byte) (s : State),
    (∃ t, exec (.ldImm x nn) s = .next t ∧ t = { s with V := t.V } ∧ ∀ r, reg t r = if r = x then nn.toNat else reg s r) ∧
    (∃ t, exec (.addImm x nn) s = .next t ∧ t = { s with V := t.V } ∧
      ∀ r, reg t r = if r = x then (reg s x + nn.toNat) % 256 else reg s r) ∧
    (∃ t, exec (.ldReg x y) s = .next t ∧ t = { s with V := t.V } ∧ ∀ r, reg t r = if r = x then reg s y else reg s r)

/-- R255, R256, R257 (that `VF` is left alone is the spec's decision D13): bit by bit; nothing but `V[x]` changes. -/
def Obligations.LogicalOperations : Prop :=
  ∀ (x y : Nibble) (s : State),
    (∃ t, exec (.or x y) s = .next t ∧ t = { s with V := t.V } ∧ ∀ r b,
      (t.reg r).getLsbD b = if r = x then (s.reg x).getLsbD b || (s.reg y).getLsbD b else (s.reg r).getLsbD b) ∧
    (∃ t, exec (.and x y) s = .next t ∧ t = { s with V := t.V } ∧ ∀ r b,
      (t.reg r).getLsbD b = if r = x then (s.reg x).getLsbD b && (s.reg y).getLsbD b else (s.reg r).getLsbD b) ∧
    (∃ t, exec (.xor x y) s = .next t ∧ t = { s with V := t.V } ∧ ∀ r b,
      (t.reg r).getLsbD b = if r = x then (s.reg x).getLsbD b ^^ (s.reg y).getLsbD b else (s.reg r).getLsbD b)

/-- R251, R258, R259, R260 (the write order is the parameter FLAG_WRITE_ORDER, D3; both orders): sum and differences modulo 256,
carry and no-borrow in `VF`, `VF` as destination or source included; nothing but `V[x]` and `VF` changes. -/
def Obligations.AddAndSubtractWithFlag : Prop :=
  ∀ (x y : Nibble) (s : State),
    (∃ t, exec (.addReg x y) s = .next t ∧ t = { s with V := t.V } ∧
      FlaggedRegs s t x x y (fun a b => if a + b > 255 then 1 else 0) (fun a b => (a + b) % 256)) ∧
    (∃ t, exec (.sub x y) s = .next t ∧ t = { s with V := t.V } ∧
      FlaggedRegs s t x x y (fun a b => if a ≥ b then 1 else 0) (fun a b => (a + 256 - b) % 256)) ∧
    (∃ t, exec (.subn x y) s = .next t ∧ t = { s with V := t.V } ∧
      FlaggedRegs s t x x y (fun a b => if a > b then 0 else 1) (fun a b => (b + 256 - a) % 256))

/-- R261, R262, R264 (write order: D3): the shifts, from the variant's source register; nothing but `V[x]` and `VF` changes. -/
def Obligations.ShiftsFromTheVariantsSource : Prop :=
  ∀ (x y : Nibble) (s : State),
    (∃ t, exec (.shr x y) s = .next t ∧ t = { s with V := t.V } ∧
      FlaggedRegs s t x (shiftFrom s x y) (shiftFrom s x y) (fun a _ => a % 2) (fun a _ => a / 2)) ∧
    (∃ t, exec (.shl x y) s = .next t ∧ t = { s with V := t.V } ∧
      FlaggedRegs s t x (shiftFrom s x y) (shiftFrom s x y) (fun a _ => a / 128) (fun a _ => 2 * a % 256))

/-- R265 (D41; the draw is log 6): `V[x]` is the drawn byte masked; each execution takes one draw; two executions are independent:
any byte can be drawn, and any byte after it; nothing but `V[x]` and the draws changes. -/
def Obligations.RndMasksAnyDrawnByte : Prop :=
  ∀ (x : Nibble) (nn : Byte) (s : State),
    (∃ t, exec (.rnd x nn) s = .next t ∧ t = { s with V := t.V, inputs := t.inputs } ∧
      t.inputs = { s.inputs with randomBytes := s.inputs.randomBytes.tail, taken := s.inputs.taken + 1 } ∧
      ∀ r, t.reg r = if r = x then s.drawnByte &&& nn else s.reg r) ∧
    ∀ b c : Byte, ∃ (inputs : Inputs) (t u : State),
      exec (.rnd x nn) { s with inputs := inputs } = .next t ∧ t.reg x = b &&& nn ∧
        exec (.rnd x nn) t = .next u ∧ u.reg x = c &&& nn

/-! ### Index and memory operations (42_index_memory_ops.md) -/

/-- R300, R302, R303 (the low nibble is the spec's decision D17): `I` loaded with an address or pointed at a glyph; nothing else
changes. -/
def Obligations.IndexLoads : Prop :=
  ∀ (nnn : Addr12) (x : Nibble) (s : State),
    (∃ t, exec (.ldI nnn) s = .next t ∧ t = { s with I := t.I } ∧ t.I.toNat = nnn.toNat) ∧
    (∃ t, exec (.ldF x) s = .next t ∧ t = { s with I := t.I } ∧
      t.I.toNat = (s.config.lowFontBase + 5 * (reg s x % 16)) % 65536) ∧
    (∃ t, exec (.ldHf x) s = .next t ∧ t = { s with I := t.I } ∧
      t.I.toNat = (s.config.highFontBase + 10 * (reg s x % 16)) % 65536)

/-- R301 (write order D3, wrap D20): `I + V[x]` modulo 2^16 and the 0xFFF range flag; under FlagFirst with `x = 0xF` the new flag is
added. -/
def Obligations.AddIndexWithRangeFlag : Prop :=
  ∀ (x : Nibble) (s : State),
    let f := if s.I.toNat + reg s x > 0xFFF then 1 else 0
    ∃ t, exec (.addI x) s = .next t ∧ t = { s with I := t.I, V := t.V } ∧ (∀ r, reg t r = if r = 15 then f else reg s r) ∧
      t.I.toNat = (s.I.toNat + if x = 15 ∧ s.config.flagWriteOrder = .flagFirst then f else reg s x) % 65536

/-- R304, 20_memory.md R83: hundreds, tens and units of `V[x]` at `I`, `I+1`, `I+2`; `I` unchanged. -/
def Obligations.DecimalDigitsAreStored : Prop :=
  ∀ (x : Nibble) (s : State), ∃ t, exec (.ldB x) s = .next t ∧ t = { s with memory := t.memory } ∧
    StoredAtI s t 3 (fun k => if k = 0 then reg s x / 100 else if k = 1 then reg s x / 10 % 10 else reg s x % 10)

/-- R305, R307 (90_conflicts.md C1; D33): `V[0]..V[x]` stored from `I` on, `I` counted on by `x + 1` where the increment rule holds. -/
def Obligations.RegisterSave : Prop :=
  ∀ (x : Nibble) (s : State), ∃ t, exec (.ldMemVx x) s = .next t ∧ t = { s with memory := t.memory, I := t.I } ∧
    StoredAtI s t (x.toNat + 1) (fun k => reg s (BitVec.ofNat 4 k)) ∧ t.I.toNat = indexAfter s x

/-- R305, R308 (C1; D33): `V[0]..V[x]` loaded from `I` on; no other register changes. -/
def Obligations.RegisterLoad : Prop :=
  ∀ (x : Nibble) (s : State), ∃ t, exec (.ldVxMem x) s = .next t ∧ t = { s with V := t.V, I := t.I } ∧
    (∀ r : Nibble, t.reg r = if r.toNat ≤ x.toNat then s.readByte (s.I.toNat + r.toNat) else s.reg r) ∧
    t.I.toNat = indexAfter s x

/-- R309, R310: for `x ≤ 7` the flag registers are saved and loaded; nothing else changes. -/
def Obligations.FlagRegistersSaveAndLoad : Prop :=
  ∀ (x : Nibble) (s : State), x.toNat ≤ 7 →
    (∃ t, exec (.ldRVx x) s = .next t ∧ t = { s with R := t.R } ∧
      ∀ k : BitVec 3, t.flagReg k = if k.toNat ≤ x.toNat then s.reg (k.setWidth 4) else s.flagReg k) ∧
    (∃ t, exec (.ldVxR x) s = .next t ∧ t = { s with V := t.V } ∧
      ∀ r : Nibble, t.reg r = if r.toNat ≤ x.toNat then s.flagReg (r.setWidth 3) else s.reg r)

/-- R309, R310, 60_exceptions.md R504 (D19): for `x > 7` both fault with `FlagRegisterIndex`, which records the word and the
address it was fetched from. -/
def Obligations.FlagRegisterIndexFaults : Prop :=
  ∀ (x : Nibble) (s : State), 7 < x.toNat →
    exec (.ldRVx x) s = .fault (.flagRegisterIndex (0xF#4 ++ x ++ 0x75#8) (s.pc - 2)) ∧
      exec (.ldVxR x) s = .fault (.flagRegisterIndex (0xF#4 ++ x ++ 0x85#8) (s.pc - 2))

/-- R311, R312 (the semantics is the spec's decision D46): an inclusive register range, in either direction, stored to or loaded
from `I` on; `I` unchanged. -/
def Obligations.RangeSaveAndLoad : Prop :=
  ∀ (x y : Nibble) (s : State),
    (∃ t, exec (.save x y) s = .next t ∧ t = { s with memory := t.memory } ∧
      StoredAtI s t (rangeLength x y) (fun k => reg s (rangeReg x y k))) ∧
    (∃ t, exec (.load x y) s = .next t ∧ t = { s with V := t.V } ∧
      (∀ k, k < rangeLength x y → t.reg (rangeReg x y k) = s.readByte (s.I.toNat + k)) ∧
      (∀ r : Nibble, r.toNat < min x.toNat y.toNat ∨ max x.toNat y.toNat < r.toNat → t.reg r = s.reg r))

/-- R313, 30_encoding.md R115 (D50): the second word, big-endian, goes to `I`, and the step takes `pc` on by 4. -/
def Obligations.LongIndexLoad : Prop :=
  (∀ s : State, ∃ t, exec .ldILong s = .next t ∧ t = { s with I := t.I, pc := t.pc } ∧
    t.I = s.readByte s.pc.toNat ++ s.readByte (s.pc.toNat + 1) ∧ t.pc.toNat = (s.pc.toNat + 2) % 65536) ∧
  (∀ s : State, s.config.variant = .xochip → s.waitingForKey = false →
    (s.pc.toNat % 2 = 0 ∨ s.config.allowMisaligned = true) →
      s.readByte s.pc.toNat ++ s.readByte (s.pc.toNat + 1) = 0xF000#16 →
        ∃ t, step s = .next t ∧ t.pc.toNat = (s.pc.toNat + 4) % 65536 ∧
          t.I = s.readByte ((s.pc.toNat + 2) % 65536) ++ s.readByte ((s.pc.toNat + 2) % 65536 + 1))

/-- R314 (D36): sixteen bytes from `I` on go to the pattern buffer; nothing else changes. -/
def Obligations.AudioStoresThePattern : Prop :=
  ∀ s : State, ∃ t, exec .audio s = .next t ∧ t = { s with pattern := t.pattern } ∧
    ∀ k : Fin 16, t.pattern[k] = s.readByte (s.I.toNat + k.val)

/-! ### Timer and keyboard operations (43_timer_key_ops.md) -/

/-- R350, R351: the delay timer is read and set; nothing else changes. -/
def Obligations.DelayTimerReadAndSet : Prop :=
  ∀ (x : Nibble) (s : State),
    (∃ t, exec (.ldVxDt x) s = .next t ∧ t = { s with V := t.V } ∧
      ∀ r, reg t r = if r = x then s.DT.toNat else reg s r) ∧
    (∃ t, exec (.ldDtVx x) s = .next t ∧ t = { s with DT := t.DT } ∧ t.DT.toNat = reg s x)

/-- R352 (D34): the sound timer is set; `BeepStart` on the edge from 0, `BeepStop` on the edge to 0, nothing otherwise. -/
def Obligations.SoundTimerSet : Prop :=
  ∀ (x : Nibble) (s : State), ∃ t, exec (.ldStVx x) s = .next t ∧ t = { s with ST := t.ST, events := t.events } ∧
    t.ST.toNat = reg s x ∧
      t.events = s.events ++
        (if s.ST.toNat = 0 ∧ reg s x ≠ 0 then [.beepStart] else if s.ST.toNat ≠ 0 ∧ reg s x = 0 then [.beepStop] else [])

/-- R353, R354, 10_state.md R66 (D15, D42; the draw is log 7): `SKP` skips on the key query's answer and `SKNP` on its negation; each
takes one draw of the key queries; either answer is possible for every value of `V[x]`, and either one at the next query;
nothing but `pc` and the draws changes. -/
def Obligations.KeySkips : Prop :=
  ∀ (x : Nibble) (s : State),
    (∃ t, exec (.skp x) s = .next t ∧ t = { s with pc := t.pc, inputs := t.inputs } ∧
      t.inputs = { s.inputs with keyAnswers := s.inputs.keyAnswers.tail, taken := s.inputs.taken + 1 } ∧
      t.pc.toNat = (s.pc.toNat + if s.keyAnswer (s.reg x) then 2 else 0) % 65536) ∧
    (∃ t, exec (.sknp x) s = .next t ∧ t = { s with pc := t.pc, inputs := t.inputs } ∧
      t.inputs = { s.inputs with keyAnswers := s.inputs.keyAnswers.tail, taken := s.inputs.taken + 1 } ∧
      t.pc.toNat = (s.pc.toNat + if s.keyAnswer (s.reg x) then 0 else 2) % 65536) ∧
    ∀ p q : Bool, ∃ (inputs : Inputs) (t u : State),
      State.keyAnswer { s with inputs := inputs } (s.reg x) = p ∧
        exec (.skp x) { s with inputs := inputs } = .next t ∧ t.keyAnswer (t.reg x) = q ∧
        exec (.sknp x) { s with inputs := inputs } = .next u ∧ u.keyAnswer (u.reg x) = q

/-- R355: the wait is latched with its register; `V[x]` and everything else are unchanged. -/
def Obligations.KeyWaitIsLatched : Prop :=
  ∀ (x : Nibble) (s : State),
    exec (.ldVxK x) s = .next { s with waitingForKey := true, waitingForKeyRegister := x }

/-! ### Display (44_display_engine.md, 45_display_ops.md) -/

/-- R402 to R409, R451, R452 (D21 to D26, D49): `DRW` and `DRW16`, by loops over rows and columns in the model, are pixel by pixel the
clipped XOR of the sprite on the selected planes, with the collision row count, the bottom edge included, in `VF`. The states are
those with `NUM_PLANES` planes (10_state.md R47), which the invariant keeps. -/
def Obligations.DrawIsPixelwiseXorWithRowCount : Prop :=
  ∀ (x y n : Nibble) (s : State), s.planes.length = numPlanes s.config →
    (∃ t, exec (.drw x y n) s = .next t ∧ SpriteDrawn s t x y 8 n.toNat) ∧
      (∃ t, exec (.drw16 x y) s = .next t ∧ SpriteDrawn s t x y 16 16)

open Classical in
/-- R421: two identical draws with no state change between them restore every plane exactly, and the second one's count is the
number of sprite rows that lie at or beyond the bottom edge with a set bit or hold an on-screen set bit whose pixel the first one
turned on. -/
def Obligations.DrawTwiceRestoresThePlanes : Prop :=
  ∀ (s : State) (a dx dy width height : Nat), s.planes.length = numPlanes s.config →
    let first := draw s a dx dy width height
    let second := draw { s with planes := first.planes } a dx dy width height
    let X := origin s dx s.width
    let Y := origin s dy s.height
    second.planes = s.planes ∧
      second.count =
        ((List.range (numPlanes s.config)).map fun p =>
          if Selected s p then
            (List.range height).countP fun r => decide (∃ c, c < width ∧
              spriteSet s (spriteData s a width height p) width r c ∧
                (s.height ≤ Y + r ∨ (Y + r < s.height ∧ X + c < s.width ∧ pixel s p (X + c) (Y + r) = false)))
          else 0).sum

/-- R410, R450 (D31): `CLS` clears the selected planes and leaves the others, and nothing else changes. -/
def Obligations.ClsClearsTheSelectedPlanes : Prop :=
  ∀ s : State, ∃ t, exec .cls s = .next t ∧ t = { s with planes := t.planes } ∧ t.planes.length = s.planes.length ∧
    ∀ p, p < s.planes.length →
      (Selected s p → ∀ i, Plane.cell (t.plane p) i = false) ∧ (¬ Selected s p → t.plane p = s.plane p)

/-- R411 to R414: the line primitives, pixel by pixel, on the selected planes. -/
def Obligations.LinePrimitivesCopyAndClear : Prop :=
  ∀ (s : State) (src dst p X Y : Nat), p < s.planes.length → Selected s p → X < s.width → Y < s.height →
    (src < s.height → dst < s.height →
      pixel (s.copyRow src dst) p X Y = if Y = dst then pixel s p X src else pixel s p X Y) ∧
    (src < s.width → dst < s.width →
      pixel (s.copyColumn src dst) p X Y = if X = dst then pixel s p src Y else pixel s p X Y) ∧
    (dst < s.height → pixel (s.clearRow dst) p X Y = if Y = dst then false else pixel s p X Y) ∧
    (dst < s.width → pixel (s.clearColumn dst) p X Y = if X = dst then false else pixel s p X Y)

/-- R415, R416, R453, R454 (D27, D28; 90_conflicts.md C4): `SCDOWN n` and `SCUP n` move the selected planes by exactly `n` rows of the
current resolution; the rows moved in are clear; nothing else changes. -/
def Obligations.VerticalScrollsMoveByRows : Prop :=
  ∀ (n : Nibble) (s : State),
    (∃ t, exec (.scdown n) s = .next t ∧ t = { s with planes := t.planes } ∧ t.planes.length = s.planes.length ∧
      ∀ p, p < s.planes.length →
        (Selected s p → ∀ X Y, X < s.width → Y < s.height →
          pixel t p X Y = if n.toNat ≤ Y then pixel s p X (Y - n.toNat) else false) ∧
        (¬ Selected s p → t.plane p = s.plane p)) ∧
    (∃ t, exec (.scup n) s = .next t ∧ t = { s with planes := t.planes } ∧ t.planes.length = s.planes.length ∧
      ∀ p, p < s.planes.length →
        (Selected s p → ∀ X Y, X < s.width → Y < s.height →
          pixel t p X Y = if Y + n.toNat < s.height then pixel s p X (Y + n.toNat) else false) ∧
        (¬ Selected s p → t.plane p = s.plane p))

/-- R417, R418, R455, R456 (D27): `SCRIGHT` and `SCLEFT` move the selected planes by exactly 4 columns; the columns moved in are
clear; nothing else changes. -/
def Obligations.HorizontalScrollsMoveByFour : Prop :=
  ∀ s : State,
    (∃ t, exec .scright s = .next t ∧ t = { s with planes := t.planes } ∧ t.planes.length = s.planes.length ∧
      ∀ p, p < s.planes.length →
        (Selected s p → ∀ X Y, X < s.width → Y < s.height →
          pixel t p X Y = if 4 ≤ X then pixel s p (X - 4) Y else false) ∧
        (¬ Selected s p → t.plane p = s.plane p)) ∧
    (∃ t, exec .scleft s = .next t ∧ t = { s with planes := t.planes } ∧ t.planes.length = s.planes.length ∧
      ∀ p, p < s.planes.length →
        (Selected s p → ∀ X Y, X < s.width → Y < s.height →
          pixel t p X Y = if X + 4 < s.width then pixel s p (X + 4) Y else false) ∧
        (¬ Selected s p → t.plane p = s.plane p))

/-- R419, R420, R457, R458 (D29): the resolution is switched, every plane keeps its first `min(oldLen, newLen)` cells in place and is
false beyond, and the event is emitted, the switch to the current resolution included; nothing else changes. -/
def Obligations.ResolutionSwitchKeepsThePrefix : Prop :=
  ∀ s : State,
    (∃ t, exec .low s = .next t ∧ t.highResolution = false ∧ t.events = s.events ++ [.lowResolutionConfigured] ∧
      t.planes.length = s.planes.length ∧
      (∀ p i, Plane.cell (t.plane p) i = (Plane.cell (s.plane p) i && decide (i < 2048))) ∧
      t = { s with planes := t.planes, highResolution := t.highResolution, events := t.events }) ∧
    (∃ t, exec .high s = .next t ∧ t.highResolution = true ∧ t.events = s.events ++ [.highResolutionConfigured] ∧
      t.planes.length = s.planes.length ∧
      (∀ p i, Plane.cell (t.plane p) i =
        (Plane.cell (s.plane p) i && decide (i < if s.highResolution then 8192 else 2048))) ∧
      t = { s with planes := t.planes, highResolution := t.highResolution, events := t.events })

/-- 10_state.md R50, 44_display_engine.md R419 (D29; 95_test_vectors.md W3): low to high to low resolution restores every plane. -/
def Obligations.ResolutionRoundTrip : Prop :=
  ∀ s : State, Inv s → s.highResolution = false →
    ∃ t u, exec .high s = .next t ∧ exec .low t = .next u ∧ u.planes = s.planes ∧ u.highResolution = false

/-- R459 (D30): `planeMask <- n`; the pixels and everything else are unchanged. -/
def Obligations.PlaneSelects : Prop :=
  ∀ (n : Nibble) (s : State), ∃ t, exec (.plane n) s = .next t ∧ t.planeMask = n ∧ t = { s with planeMask := t.planeMask }
end

