-- ==== Sys2Proof/Laws/Loops.lean ====
section
/-! SUPPORT. Induction over the counted loop `forUpTo`, packaged once. -/

namespace Sys2Proof.Machine

@[simp] theorem forUpTo_zero {σ : Type} (f : Nat → σ → σ) (s : σ) : forUpTo 0 f s = s := rfl

theorem forUpTo_succ {σ : Type} (n : Nat) (f : Nat → σ → σ) (s : σ) : forUpTo (n + 1) f s = f n (forUpTo n f s) := rfl

/-- A loop invariant: it holds before, and iteration `k` takes it from `k` to `k + 1`. -/
theorem forUpTo_induction {σ : Type} (P : Nat → σ → Prop) (n : Nat) (f : Nat → σ → σ) (s : σ) (start : P 0 s)
    (next : ∀ k t, k < n → P k t → P (k + 1) (f k t)) : P n (forUpTo n f s) := by
  induction n with
  | zero => exact start
  | succ n ih =>
    exact next n _ (Nat.lt_succ_self n) (ih (fun k t hk => next k t (Nat.lt_succ_of_lt hk)))

/-- What every iteration leaves alone, the loop leaves alone. -/
theorem forUpTo_keeps {σ β : Type} (g : σ → β) (n : Nat) (f : Nat → σ → σ) (s : σ) (step : ∀ k t, g (f k t) = g t) :
    g (forUpTo n f s) = g s :=
  forUpTo_induction (fun _ t => g t = g s) n f s rfl (fun k t _ h => (step k t).trans h)

/-- Two loops whose iterations agree under a relation stay related. -/
theorem forUpTo_rel {σ τ : Type} (P : σ → τ → Prop) (n : Nat) (f : Nat → σ → σ) (g : Nat → τ → τ) (s : σ) (t : τ)
    (start : P s t) (next : ∀ k a b, k < n → P a b → P (f k a) (g k b)) : P (forUpTo n f s) (forUpTo n g t) := by
  induction n with
  | zero => exact start
  | succ n ih => exact next n _ _ (Nat.lt_succ_self n) (ih (fun k a b hk => next k a b (Nat.lt_succ_of_lt hk)))

end Sys2Proof.Machine
end

