-- ==== Sys2Proof/Laws/State.lean ====
section
/-! SUPPORT. One lemma per field per named update of the state, so that no proof unfolds an update to read another field. -/

namespace Sys2Proof.Machine

/-! `State.setReg` changes `V` only. -/

@[simp] theorem State.setReg_config (s : State) (x : Nibble) (v : Byte) : (s.setReg x v).config = s.config := rfl
@[simp] theorem State.setReg_memory (s : State) (x : Nibble) (v : Byte) : (s.setReg x v).memory = s.memory := rfl
@[simp] theorem State.setReg_I (s : State) (x : Nibble) (v : Byte) : (s.setReg x v).I = s.I := rfl
@[simp] theorem State.setReg_pc (s : State) (x : Nibble) (v : Byte) : (s.setReg x v).pc = s.pc := rfl
@[simp] theorem State.setReg_stack (s : State) (x : Nibble) (v : Byte) : (s.setReg x v).stack = s.stack := rfl
@[simp] theorem State.setReg_sp (s : State) (x : Nibble) (v : Byte) : (s.setReg x v).sp = s.sp := rfl
@[simp] theorem State.setReg_DT (s : State) (x : Nibble) (v : Byte) : (s.setReg x v).DT = s.DT := rfl
@[simp] theorem State.setReg_ST (s : State) (x : Nibble) (v : Byte) : (s.setReg x v).ST = s.ST := rfl
@[simp] theorem State.setReg_R (s : State) (x : Nibble) (v : Byte) : (s.setReg x v).R = s.R := rfl
@[simp] theorem State.setReg_waitingForKey (s : State) (x : Nibble) (v : Byte) : (s.setReg x v).waitingForKey = s.waitingForKey := rfl
@[simp] theorem State.setReg_waitingForKeyRegister (s : State) (x : Nibble) (v : Byte) : (s.setReg x v).waitingForKeyRegister = s.waitingForKeyRegister := rfl
@[simp] theorem State.setReg_finished (s : State) (x : Nibble) (v : Byte) : (s.setReg x v).finished = s.finished := rfl
@[simp] theorem State.setReg_pattern (s : State) (x : Nibble) (v : Byte) : (s.setReg x v).pattern = s.pattern := rfl
@[simp] theorem State.setReg_planes (s : State) (x : Nibble) (v : Byte) : (s.setReg x v).planes = s.planes := rfl
@[simp] theorem State.setReg_highResolution (s : State) (x : Nibble) (v : Byte) : (s.setReg x v).highResolution = s.highResolution := rfl
@[simp] theorem State.setReg_planeMask (s : State) (x : Nibble) (v : Byte) : (s.setReg x v).planeMask = s.planeMask := rfl
@[simp] theorem State.setReg_events (s : State) (x : Nibble) (v : Byte) : (s.setReg x v).events = s.events := rfl
@[simp] theorem State.setReg_inputs (s : State) (x : Nibble) (v : Byte) : (s.setReg x v).inputs = s.inputs := rfl

/-! `State.setFlagReg` changes `R` only. -/

@[simp] theorem State.setFlagReg_config (s : State) (k : BitVec 3) (v : Byte) : (s.setFlagReg k v).config = s.config := rfl
@[simp] theorem State.setFlagReg_memory (s : State) (k : BitVec 3) (v : Byte) : (s.setFlagReg k v).memory = s.memory := rfl
@[simp] theorem State.setFlagReg_V (s : State) (k : BitVec 3) (v : Byte) : (s.setFlagReg k v).V = s.V := rfl
@[simp] theorem State.setFlagReg_I (s : State) (k : BitVec 3) (v : Byte) : (s.setFlagReg k v).I = s.I := rfl
@[simp] theorem State.setFlagReg_pc (s : State) (k : BitVec 3) (v : Byte) : (s.setFlagReg k v).pc = s.pc := rfl
@[simp] theorem State.setFlagReg_stack (s : State) (k : BitVec 3) (v : Byte) : (s.setFlagReg k v).stack = s.stack := rfl
@[simp] theorem State.setFlagReg_sp (s : State) (k : BitVec 3) (v : Byte) : (s.setFlagReg k v).sp = s.sp := rfl
@[simp] theorem State.setFlagReg_DT (s : State) (k : BitVec 3) (v : Byte) : (s.setFlagReg k v).DT = s.DT := rfl
@[simp] theorem State.setFlagReg_ST (s : State) (k : BitVec 3) (v : Byte) : (s.setFlagReg k v).ST = s.ST := rfl
@[simp] theorem State.setFlagReg_waitingForKey (s : State) (k : BitVec 3) (v : Byte) : (s.setFlagReg k v).waitingForKey = s.waitingForKey := rfl
@[simp] theorem State.setFlagReg_waitingForKeyRegister (s : State) (k : BitVec 3) (v : Byte) : (s.setFlagReg k v).waitingForKeyRegister = s.waitingForKeyRegister := rfl
@[simp] theorem State.setFlagReg_finished (s : State) (k : BitVec 3) (v : Byte) : (s.setFlagReg k v).finished = s.finished := rfl
@[simp] theorem State.setFlagReg_pattern (s : State) (k : BitVec 3) (v : Byte) : (s.setFlagReg k v).pattern = s.pattern := rfl
@[simp] theorem State.setFlagReg_planes (s : State) (k : BitVec 3) (v : Byte) : (s.setFlagReg k v).planes = s.planes := rfl
@[simp] theorem State.setFlagReg_highResolution (s : State) (k : BitVec 3) (v : Byte) : (s.setFlagReg k v).highResolution = s.highResolution := rfl
@[simp] theorem State.setFlagReg_planeMask (s : State) (k : BitVec 3) (v : Byte) : (s.setFlagReg k v).planeMask = s.planeMask := rfl
@[simp] theorem State.setFlagReg_events (s : State) (k : BitVec 3) (v : Byte) : (s.setFlagReg k v).events = s.events := rfl
@[simp] theorem State.setFlagReg_inputs (s : State) (k : BitVec 3) (v : Byte) : (s.setFlagReg k v).inputs = s.inputs := rfl

/-! `State.setStackEntry` changes `stack` only. -/

@[simp] theorem State.setStackEntry_config (s : State) (i : Nibble) (v : Word) : (s.setStackEntry i v).config = s.config := rfl
@[simp] theorem State.setStackEntry_memory (s : State) (i : Nibble) (v : Word) : (s.setStackEntry i v).memory = s.memory := rfl
@[simp] theorem State.setStackEntry_V (s : State) (i : Nibble) (v : Word) : (s.setStackEntry i v).V = s.V := rfl
@[simp] theorem State.setStackEntry_I (s : State) (i : Nibble) (v : Word) : (s.setStackEntry i v).I = s.I := rfl
@[simp] theorem State.setStackEntry_pc (s : State) (i : Nibble) (v : Word) : (s.setStackEntry i v).pc = s.pc := rfl
@[simp] theorem State.setStackEntry_sp (s : State) (i : Nibble) (v : Word) : (s.setStackEntry i v).sp = s.sp := rfl
@[simp] theorem State.setStackEntry_DT (s : State) (i : Nibble) (v : Word) : (s.setStackEntry i v).DT = s.DT := rfl
@[simp] theorem State.setStackEntry_ST (s : State) (i : Nibble) (v : Word) : (s.setStackEntry i v).ST = s.ST := rfl
@[simp] theorem State.setStackEntry_R (s : State) (i : Nibble) (v : Word) : (s.setStackEntry i v).R = s.R := rfl
@[simp] theorem State.setStackEntry_waitingForKey (s : State) (i : Nibble) (v : Word) : (s.setStackEntry i v).waitingForKey = s.waitingForKey := rfl
@[simp] theorem State.setStackEntry_waitingForKeyRegister (s : State) (i : Nibble) (v : Word) : (s.setStackEntry i v).waitingForKeyRegister = s.waitingForKeyRegister := rfl
@[simp] theorem State.setStackEntry_finished (s : State) (i : Nibble) (v : Word) : (s.setStackEntry i v).finished = s.finished := rfl
@[simp] theorem State.setStackEntry_pattern (s : State) (i : Nibble) (v : Word) : (s.setStackEntry i v).pattern = s.pattern := rfl
@[simp] theorem State.setStackEntry_planes (s : State) (i : Nibble) (v : Word) : (s.setStackEntry i v).planes = s.planes := rfl
@[simp] theorem State.setStackEntry_highResolution (s : State) (i : Nibble) (v : Word) : (s.setStackEntry i v).highResolution = s.highResolution := rfl
@[simp] theorem State.setStackEntry_planeMask (s : State) (i : Nibble) (v : Word) : (s.setStackEntry i v).planeMask = s.planeMask := rfl
@[simp] theorem State.setStackEntry_events (s : State) (i : Nibble) (v : Word) : (s.setStackEntry i v).events = s.events := rfl
@[simp] theorem State.setStackEntry_inputs (s : State) (i : Nibble) (v : Word) : (s.setStackEntry i v).inputs = s.inputs := rfl

/-! `State.writeByte` changes `memory` only. -/

@[simp] theorem State.writeByte_config (s : State) (a : Nat) (v : Byte) : (s.writeByte a v).config = s.config := rfl
@[simp] theorem State.writeByte_V (s : State) (a : Nat) (v : Byte) : (s.writeByte a v).V = s.V := rfl
@[simp] theorem State.writeByte_I (s : State) (a : Nat) (v : Byte) : (s.writeByte a v).I = s.I := rfl
@[simp] theorem State.writeByte_pc (s : State) (a : Nat) (v : Byte) : (s.writeByte a v).pc = s.pc := rfl
@[simp] theorem State.writeByte_stack (s : State) (a : Nat) (v : Byte) : (s.writeByte a v).stack = s.stack := rfl
@[simp] theorem State.writeByte_sp (s : State) (a : Nat) (v : Byte) : (s.writeByte a v).sp = s.sp := rfl
@[simp] theorem State.writeByte_DT (s : State) (a : Nat) (v : Byte) : (s.writeByte a v).DT = s.DT := rfl
@[simp] theorem State.writeByte_ST (s : State) (a : Nat) (v : Byte) : (s.writeByte a v).ST = s.ST := rfl
@[simp] theorem State.writeByte_R (s : State) (a : Nat) (v : Byte) : (s.writeByte a v).R = s.R := rfl
@[simp] theorem State.writeByte_waitingForKey (s : State) (a : Nat) (v : Byte) : (s.writeByte a v).waitingForKey = s.waitingForKey := rfl
@[simp] theorem State.writeByte_waitingForKeyRegister (s : State) (a : Nat) (v : Byte) : (s.writeByte a v).waitingForKeyRegister = s.waitingForKeyRegister := rfl
@[simp] theorem State.writeByte_finished (s : State) (a : Nat) (v : Byte) : (s.writeByte a v).finished = s.finished := rfl
@[simp] theorem State.writeByte_pattern (s : State) (a : Nat) (v : Byte) : (s.writeByte a v).pattern = s.pattern := rfl
@[simp] theorem State.writeByte_planes (s : State) (a : Nat) (v : Byte) : (s.writeByte a v).planes = s.planes := rfl
@[simp] theorem State.writeByte_highResolution (s : State) (a : Nat) (v : Byte) : (s.writeByte a v).highResolution = s.highResolution := rfl
@[simp] theorem State.writeByte_planeMask (s : State) (a : Nat) (v : Byte) : (s.writeByte a v).planeMask = s.planeMask := rfl
@[simp] theorem State.writeByte_events (s : State) (a : Nat) (v : Byte) : (s.writeByte a v).events = s.events := rfl
@[simp] theorem State.writeByte_inputs (s : State) (a : Nat) (v : Byte) : (s.writeByte a v).inputs = s.inputs := rfl

/-! `State.advancePc` changes `pc` only. -/

@[simp] theorem State.advancePc_config (s : State) : (s.advancePc).config = s.config := rfl
@[simp] theorem State.advancePc_memory (s : State) : (s.advancePc).memory = s.memory := rfl
@[simp] theorem State.advancePc_V (s : State) : (s.advancePc).V = s.V := rfl
@[simp] theorem State.advancePc_I (s : State) : (s.advancePc).I = s.I := rfl
@[simp] theorem State.advancePc_stack (s : State) : (s.advancePc).stack = s.stack := rfl
@[simp] theorem State.advancePc_sp (s : State) : (s.advancePc).sp = s.sp := rfl
@[simp] theorem State.advancePc_DT (s : State) : (s.advancePc).DT = s.DT := rfl
@[simp] theorem State.advancePc_ST (s : State) : (s.advancePc).ST = s.ST := rfl
@[simp] theorem State.advancePc_R (s : State) : (s.advancePc).R = s.R := rfl
@[simp] theorem State.advancePc_waitingForKey (s : State) : (s.advancePc).waitingForKey = s.waitingForKey := rfl
@[simp] theorem State.advancePc_waitingForKeyRegister (s : State) : (s.advancePc).waitingForKeyRegister = s.waitingForKeyRegister := rfl
@[simp] theorem State.advancePc_finished (s : State) : (s.advancePc).finished = s.finished := rfl
@[simp] theorem State.advancePc_pattern (s : State) : (s.advancePc).pattern = s.pattern := rfl
@[simp] theorem State.advancePc_planes (s : State) : (s.advancePc).planes = s.planes := rfl
@[simp] theorem State.advancePc_highResolution (s : State) : (s.advancePc).highResolution = s.highResolution := rfl
@[simp] theorem State.advancePc_planeMask (s : State) : (s.advancePc).planeMask = s.planeMask := rfl
@[simp] theorem State.advancePc_events (s : State) : (s.advancePc).events = s.events := rfl
@[simp] theorem State.advancePc_inputs (s : State) : (s.advancePc).inputs = s.inputs := rfl

/-! `State.skip` changes `pc` only. -/

@[simp] theorem State.skip_config (s : State) : (s.skip).config = s.config := rfl
@[simp] theorem State.skip_memory (s : State) : (s.skip).memory = s.memory := rfl
@[simp] theorem State.skip_V (s : State) : (s.skip).V = s.V := rfl
@[simp] theorem State.skip_I (s : State) : (s.skip).I = s.I := rfl
@[simp] theorem State.skip_stack (s : State) : (s.skip).stack = s.stack := rfl
@[simp] theorem State.skip_sp (s : State) : (s.skip).sp = s.sp := rfl
@[simp] theorem State.skip_DT (s : State) : (s.skip).DT = s.DT := rfl
@[simp] theorem State.skip_ST (s : State) : (s.skip).ST = s.ST := rfl
@[simp] theorem State.skip_R (s : State) : (s.skip).R = s.R := rfl
@[simp] theorem State.skip_waitingForKey (s : State) : (s.skip).waitingForKey = s.waitingForKey := rfl
@[simp] theorem State.skip_waitingForKeyRegister (s : State) : (s.skip).waitingForKeyRegister = s.waitingForKeyRegister := rfl
@[simp] theorem State.skip_finished (s : State) : (s.skip).finished = s.finished := rfl
@[simp] theorem State.skip_pattern (s : State) : (s.skip).pattern = s.pattern := rfl
@[simp] theorem State.skip_planes (s : State) : (s.skip).planes = s.planes := rfl
@[simp] theorem State.skip_highResolution (s : State) : (s.skip).highResolution = s.highResolution := rfl
@[simp] theorem State.skip_planeMask (s : State) : (s.skip).planeMask = s.planeMask := rfl
@[simp] theorem State.skip_events (s : State) : (s.skip).events = s.events := rfl
@[simp] theorem State.skip_inputs (s : State) : (s.skip).inputs = s.inputs := rfl

/-! `State.emit` changes `events` only. -/

@[simp] theorem State.emit_config (s : State) (e : Event) : (s.emit e).config = s.config := rfl
@[simp] theorem State.emit_memory (s : State) (e : Event) : (s.emit e).memory = s.memory := rfl
@[simp] theorem State.emit_V (s : State) (e : Event) : (s.emit e).V = s.V := rfl
@[simp] theorem State.emit_I (s : State) (e : Event) : (s.emit e).I = s.I := rfl
@[simp] theorem State.emit_pc (s : State) (e : Event) : (s.emit e).pc = s.pc := rfl
@[simp] theorem State.emit_stack (s : State) (e : Event) : (s.emit e).stack = s.stack := rfl
@[simp] theorem State.emit_sp (s : State) (e : Event) : (s.emit e).sp = s.sp := rfl
@[simp] theorem State.emit_DT (s : State) (e : Event) : (s.emit e).DT = s.DT := rfl
@[simp] theorem State.emit_ST (s : State) (e : Event) : (s.emit e).ST = s.ST := rfl
@[simp] theorem State.emit_R (s : State) (e : Event) : (s.emit e).R = s.R := rfl
@[simp] theorem State.emit_waitingForKey (s : State) (e : Event) : (s.emit e).waitingForKey = s.waitingForKey := rfl
@[simp] theorem State.emit_waitingForKeyRegister (s : State) (e : Event) : (s.emit e).waitingForKeyRegister = s.waitingForKeyRegister := rfl
@[simp] theorem State.emit_finished (s : State) (e : Event) : (s.emit e).finished = s.finished := rfl
@[simp] theorem State.emit_pattern (s : State) (e : Event) : (s.emit e).pattern = s.pattern := rfl
@[simp] theorem State.emit_planes (s : State) (e : Event) : (s.emit e).planes = s.planes := rfl
@[simp] theorem State.emit_highResolution (s : State) (e : Event) : (s.emit e).highResolution = s.highResolution := rfl
@[simp] theorem State.emit_planeMask (s : State) (e : Event) : (s.emit e).planeMask = s.planeMask := rfl
@[simp] theorem State.emit_inputs (s : State) (e : Event) : (s.emit e).inputs = s.inputs := rfl

/-! `State.takeByte` changes `inputs` only. -/

@[simp] theorem State.takeByte_config (s : State) : (s.takeByte).config = s.config := rfl
@[simp] theorem State.takeByte_memory (s : State) : (s.takeByte).memory = s.memory := rfl
@[simp] theorem State.takeByte_V (s : State) : (s.takeByte).V = s.V := rfl
@[simp] theorem State.takeByte_I (s : State) : (s.takeByte).I = s.I := rfl
@[simp] theorem State.takeByte_pc (s : State) : (s.takeByte).pc = s.pc := rfl
@[simp] theorem State.takeByte_stack (s : State) : (s.takeByte).stack = s.stack := rfl
@[simp] theorem State.takeByte_sp (s : State) : (s.takeByte).sp = s.sp := rfl
@[simp] theorem State.takeByte_DT (s : State) : (s.takeByte).DT = s.DT := rfl
@[simp] theorem State.takeByte_ST (s : State) : (s.takeByte).ST = s.ST := rfl
@[simp] theorem State.takeByte_R (s : State) : (s.takeByte).R = s.R := rfl
@[simp] theorem State.takeByte_waitingForKey (s : State) : (s.takeByte).waitingForKey = s.waitingForKey := rfl
@[simp] theorem State.takeByte_waitingForKeyRegister (s : State) : (s.takeByte).waitingForKeyRegister = s.waitingForKeyRegister := rfl
@[simp] theorem State.takeByte_finished (s : State) : (s.takeByte).finished = s.finished := rfl
@[simp] theorem State.takeByte_pattern (s : State) : (s.takeByte).pattern = s.pattern := rfl
@[simp] theorem State.takeByte_planes (s : State) : (s.takeByte).planes = s.planes := rfl
@[simp] theorem State.takeByte_highResolution (s : State) : (s.takeByte).highResolution = s.highResolution := rfl
@[simp] theorem State.takeByte_planeMask (s : State) : (s.takeByte).planeMask = s.planeMask := rfl
@[simp] theorem State.takeByte_events (s : State) : (s.takeByte).events = s.events := rfl

/-! `State.takeKeyAnswer` changes `inputs` only. -/

@[simp] theorem State.takeKeyAnswer_config (s : State) : (s.takeKeyAnswer).config = s.config := rfl
@[simp] theorem State.takeKeyAnswer_memory (s : State) : (s.takeKeyAnswer).memory = s.memory := rfl
@[simp] theorem State.takeKeyAnswer_V (s : State) : (s.takeKeyAnswer).V = s.V := rfl
@[simp] theorem State.takeKeyAnswer_I (s : State) : (s.takeKeyAnswer).I = s.I := rfl
@[simp] theorem State.takeKeyAnswer_pc (s : State) : (s.takeKeyAnswer).pc = s.pc := rfl
@[simp] theorem State.takeKeyAnswer_stack (s : State) : (s.takeKeyAnswer).stack = s.stack := rfl
@[simp] theorem State.takeKeyAnswer_sp (s : State) : (s.takeKeyAnswer).sp = s.sp := rfl
@[simp] theorem State.takeKeyAnswer_DT (s : State) : (s.takeKeyAnswer).DT = s.DT := rfl
@[simp] theorem State.takeKeyAnswer_ST (s : State) : (s.takeKeyAnswer).ST = s.ST := rfl
@[simp] theorem State.takeKeyAnswer_R (s : State) : (s.takeKeyAnswer).R = s.R := rfl
@[simp] theorem State.takeKeyAnswer_waitingForKey (s : State) : (s.takeKeyAnswer).waitingForKey = s.waitingForKey := rfl
@[simp] theorem State.takeKeyAnswer_waitingForKeyRegister (s : State) : (s.takeKeyAnswer).waitingForKeyRegister = s.waitingForKeyRegister := rfl
@[simp] theorem State.takeKeyAnswer_finished (s : State) : (s.takeKeyAnswer).finished = s.finished := rfl
@[simp] theorem State.takeKeyAnswer_pattern (s : State) : (s.takeKeyAnswer).pattern = s.pattern := rfl
@[simp] theorem State.takeKeyAnswer_planes (s : State) : (s.takeKeyAnswer).planes = s.planes := rfl
@[simp] theorem State.takeKeyAnswer_highResolution (s : State) : (s.takeKeyAnswer).highResolution = s.highResolution := rfl
@[simp] theorem State.takeKeyAnswer_planeMask (s : State) : (s.takeKeyAnswer).planeMask = s.planeMask := rfl
@[simp] theorem State.takeKeyAnswer_events (s : State) : (s.takeKeyAnswer).events = s.events := rfl

/-! `State.takeKeyPoll` changes `inputs` only. -/

@[simp] theorem State.takeKeyPoll_config (s : State) : (s.takeKeyPoll).config = s.config := rfl
@[simp] theorem State.takeKeyPoll_memory (s : State) : (s.takeKeyPoll).memory = s.memory := rfl
@[simp] theorem State.takeKeyPoll_V (s : State) : (s.takeKeyPoll).V = s.V := rfl
@[simp] theorem State.takeKeyPoll_I (s : State) : (s.takeKeyPoll).I = s.I := rfl
@[simp] theorem State.takeKeyPoll_pc (s : State) : (s.takeKeyPoll).pc = s.pc := rfl
@[simp] theorem State.takeKeyPoll_stack (s : State) : (s.takeKeyPoll).stack = s.stack := rfl
@[simp] theorem State.takeKeyPoll_sp (s : State) : (s.takeKeyPoll).sp = s.sp := rfl
@[simp] theorem State.takeKeyPoll_DT (s : State) : (s.takeKeyPoll).DT = s.DT := rfl
@[simp] theorem State.takeKeyPoll_ST (s : State) : (s.takeKeyPoll).ST = s.ST := rfl
@[simp] theorem State.takeKeyPoll_R (s : State) : (s.takeKeyPoll).R = s.R := rfl
@[simp] theorem State.takeKeyPoll_waitingForKey (s : State) : (s.takeKeyPoll).waitingForKey = s.waitingForKey := rfl
@[simp] theorem State.takeKeyPoll_waitingForKeyRegister (s : State) : (s.takeKeyPoll).waitingForKeyRegister = s.waitingForKeyRegister := rfl
@[simp] theorem State.takeKeyPoll_finished (s : State) : (s.takeKeyPoll).finished = s.finished := rfl
@[simp] theorem State.takeKeyPoll_pattern (s : State) : (s.takeKeyPoll).pattern = s.pattern := rfl
@[simp] theorem State.takeKeyPoll_planes (s : State) : (s.takeKeyPoll).planes = s.planes := rfl
@[simp] theorem State.takeKeyPoll_highResolution (s : State) : (s.takeKeyPoll).highResolution = s.highResolution := rfl
@[simp] theorem State.takeKeyPoll_planeMask (s : State) : (s.takeKeyPoll).planeMask = s.planeMask := rfl
@[simp] theorem State.takeKeyPoll_events (s : State) : (s.takeKeyPoll).events = s.events := rfl

/-! `State.mapSelected` changes `planes` only. -/

@[simp] theorem State.mapSelected_config (s : State) (f : Plane → Plane) : (s.mapSelected f).config = s.config := rfl
@[simp] theorem State.mapSelected_memory (s : State) (f : Plane → Plane) : (s.mapSelected f).memory = s.memory := rfl
@[simp] theorem State.mapSelected_V (s : State) (f : Plane → Plane) : (s.mapSelected f).V = s.V := rfl
@[simp] theorem State.mapSelected_I (s : State) (f : Plane → Plane) : (s.mapSelected f).I = s.I := rfl
@[simp] theorem State.mapSelected_pc (s : State) (f : Plane → Plane) : (s.mapSelected f).pc = s.pc := rfl
@[simp] theorem State.mapSelected_stack (s : State) (f : Plane → Plane) : (s.mapSelected f).stack = s.stack := rfl
@[simp] theorem State.mapSelected_sp (s : State) (f : Plane → Plane) : (s.mapSelected f).sp = s.sp := rfl
@[simp] theorem State.mapSelected_DT (s : State) (f : Plane → Plane) : (s.mapSelected f).DT = s.DT := rfl
@[simp] theorem State.mapSelected_ST (s : State) (f : Plane → Plane) : (s.mapSelected f).ST = s.ST := rfl
@[simp] theorem State.mapSelected_R (s : State) (f : Plane → Plane) : (s.mapSelected f).R = s.R := rfl
@[simp] theorem State.mapSelected_waitingForKey (s : State) (f : Plane → Plane) : (s.mapSelected f).waitingForKey = s.waitingForKey := rfl
@[simp] theorem State.mapSelected_waitingForKeyRegister (s : State) (f : Plane → Plane) : (s.mapSelected f).waitingForKeyRegister = s.waitingForKeyRegister := rfl
@[simp] theorem State.mapSelected_finished (s : State) (f : Plane → Plane) : (s.mapSelected f).finished = s.finished := rfl
@[simp] theorem State.mapSelected_pattern (s : State) (f : Plane → Plane) : (s.mapSelected f).pattern = s.pattern := rfl
@[simp] theorem State.mapSelected_highResolution (s : State) (f : Plane → Plane) : (s.mapSelected f).highResolution = s.highResolution := rfl
@[simp] theorem State.mapSelected_planeMask (s : State) (f : Plane → Plane) : (s.mapSelected f).planeMask = s.planeMask := rfl
@[simp] theorem State.mapSelected_events (s : State) (f : Plane → Plane) : (s.mapSelected f).events = s.events := rfl
@[simp] theorem State.mapSelected_inputs (s : State) (f : Plane → Plane) : (s.mapSelected f).inputs = s.inputs := rfl

/-! `State.skipIf` changes `pc` only, or nothing. -/

@[simp] theorem State.skipIf_config (s : State) (p : Bool) : (s.skipIf p).config = s.config := by
  unfold State.skipIf; split <;> rfl
@[simp] theorem State.skipIf_memory (s : State) (p : Bool) : (s.skipIf p).memory = s.memory := by
  unfold State.skipIf; split <;> rfl
@[simp] theorem State.skipIf_V (s : State) (p : Bool) : (s.skipIf p).V = s.V := by
  unfold State.skipIf; split <;> rfl
@[simp] theorem State.skipIf_I (s : State) (p : Bool) : (s.skipIf p).I = s.I := by
  unfold State.skipIf; split <;> rfl
@[simp] theorem State.skipIf_stack (s : State) (p : Bool) : (s.skipIf p).stack = s.stack := by
  unfold State.skipIf; split <;> rfl
@[simp] theorem State.skipIf_sp (s : State) (p : Bool) : (s.skipIf p).sp = s.sp := by
  unfold State.skipIf; split <;> rfl
@[simp] theorem State.skipIf_DT (s : State) (p : Bool) : (s.skipIf p).DT = s.DT := by
  unfold State.skipIf; split <;> rfl
@[simp] theorem State.skipIf_ST (s : State) (p : Bool) : (s.skipIf p).ST = s.ST := by
  unfold State.skipIf; split <;> rfl
@[simp] theorem State.skipIf_R (s : State) (p : Bool) : (s.skipIf p).R = s.R := by
  unfold State.skipIf; split <;> rfl
@[simp] theorem State.skipIf_waitingForKey (s : State) (p : Bool) : (s.skipIf p).waitingForKey = s.waitingForKey := by
  unfold State.skipIf; split <;> rfl
@[simp] theorem State.skipIf_waitingForKeyRegister (s : State) (p : Bool) : (s.skipIf p).waitingForKeyRegister = s.waitingForKeyRegister := by
  unfold State.skipIf; split <;> rfl
@[simp] theorem State.skipIf_finished (s : State) (p : Bool) : (s.skipIf p).finished = s.finished := by
  unfold State.skipIf; split <;> rfl
@[simp] theorem State.skipIf_pattern (s : State) (p : Bool) : (s.skipIf p).pattern = s.pattern := by
  unfold State.skipIf; split <;> rfl
@[simp] theorem State.skipIf_planes (s : State) (p : Bool) : (s.skipIf p).planes = s.planes := by
  unfold State.skipIf; split <;> rfl
@[simp] theorem State.skipIf_highResolution (s : State) (p : Bool) : (s.skipIf p).highResolution = s.highResolution := by
  unfold State.skipIf; split <;> rfl
@[simp] theorem State.skipIf_planeMask (s : State) (p : Bool) : (s.skipIf p).planeMask = s.planeMask := by
  unfold State.skipIf; split <;> rfl
@[simp] theorem State.skipIf_events (s : State) (p : Bool) : (s.skipIf p).events = s.events := by
  unfold State.skipIf; split <;> rfl
@[simp] theorem State.skipIf_inputs (s : State) (p : Bool) : (s.skipIf p).inputs = s.inputs := by
  unfold State.skipIf; split <;> rfl

/-! `State.emitIf` changes `events` only, or nothing. -/

@[simp] theorem State.emitIf_config (s : State) (p : Bool) (e : Event) : (s.emitIf p e).config = s.config := by
  unfold State.emitIf; split <;> rfl
@[simp] theorem State.emitIf_memory (s : State) (p : Bool) (e : Event) : (s.emitIf p e).memory = s.memory := by
  unfold State.emitIf; split <;> rfl
@[simp] theorem State.emitIf_V (s : State) (p : Bool) (e : Event) : (s.emitIf p e).V = s.V := by
  unfold State.emitIf; split <;> rfl
@[simp] theorem State.emitIf_I (s : State) (p : Bool) (e : Event) : (s.emitIf p e).I = s.I := by
  unfold State.emitIf; split <;> rfl
@[simp] theorem State.emitIf_pc (s : State) (p : Bool) (e : Event) : (s.emitIf p e).pc = s.pc := by
  unfold State.emitIf; split <;> rfl
@[simp] theorem State.emitIf_stack (s : State) (p : Bool) (e : Event) : (s.emitIf p e).stack = s.stack := by
  unfold State.emitIf; split <;> rfl
@[simp] theorem State.emitIf_sp (s : State) (p : Bool) (e : Event) : (s.emitIf p e).sp = s.sp := by
  unfold State.emitIf; split <;> rfl
@[simp] theorem State.emitIf_DT (s : State) (p : Bool) (e : Event) : (s.emitIf p e).DT = s.DT := by
  unfold State.emitIf; split <;> rfl
@[simp] theorem State.emitIf_ST (s : State) (p : Bool) (e : Event) : (s.emitIf p e).ST = s.ST := by
  unfold State.emitIf; split <;> rfl
@[simp] theorem State.emitIf_R (s : State) (p : Bool) (e : Event) : (s.emitIf p e).R = s.R := by
  unfold State.emitIf; split <;> rfl
@[simp] theorem State.emitIf_waitingForKey (s : State) (p : Bool) (e : Event) : (s.emitIf p e).waitingForKey = s.waitingForKey := by
  unfold State.emitIf; split <;> rfl
@[simp] theorem State.emitIf_waitingForKeyRegister (s : State) (p : Bool) (e : Event) : (s.emitIf p e).waitingForKeyRegister = s.waitingForKeyRegister := by
  unfold State.emitIf; split <;> rfl
@[simp] theorem State.emitIf_finished (s : State) (p : Bool) (e : Event) : (s.emitIf p e).finished = s.finished := by
  unfold State.emitIf; split <;> rfl
@[simp] theorem State.emitIf_pattern (s : State) (p : Bool) (e : Event) : (s.emitIf p e).pattern = s.pattern := by
  unfold State.emitIf; split <;> rfl
@[simp] theorem State.emitIf_planes (s : State) (p : Bool) (e : Event) : (s.emitIf p e).planes = s.planes := by
  unfold State.emitIf; split <;> rfl
@[simp] theorem State.emitIf_highResolution (s : State) (p : Bool) (e : Event) : (s.emitIf p e).highResolution = s.highResolution := by
  unfold State.emitIf; split <;> rfl
@[simp] theorem State.emitIf_planeMask (s : State) (p : Bool) (e : Event) : (s.emitIf p e).planeMask = s.planeMask := by
  unfold State.emitIf; split <;> rfl
@[simp] theorem State.emitIf_inputs (s : State) (p : Bool) (e : Event) : (s.emitIf p e).inputs = s.inputs := by
  unfold State.emitIf; split <;> rfl

/-! `State.bumpI` changes `I` only, or nothing. -/

@[simp] theorem State.bumpI_config (s : State) (x : Nibble) : (s.bumpI x).config = s.config := by
  unfold State.bumpI; split <;> rfl
@[simp] theorem State.bumpI_memory (s : State) (x : Nibble) : (s.bumpI x).memory = s.memory := by
  unfold State.bumpI; split <;> rfl
@[simp] theorem State.bumpI_V (s : State) (x : Nibble) : (s.bumpI x).V = s.V := by
  unfold State.bumpI; split <;> rfl
@[simp] theorem State.bumpI_pc (s : State) (x : Nibble) : (s.bumpI x).pc = s.pc := by
  unfold State.bumpI; split <;> rfl
@[simp] theorem State.bumpI_stack (s : State) (x : Nibble) : (s.bumpI x).stack = s.stack := by
  unfold State.bumpI; split <;> rfl
@[simp] theorem State.bumpI_sp (s : State) (x : Nibble) : (s.bumpI x).sp = s.sp := by
  unfold State.bumpI; split <;> rfl
@[simp] theorem State.bumpI_DT (s : State) (x : Nibble) : (s.bumpI x).DT = s.DT := by
  unfold State.bumpI; split <;> rfl
@[simp] theorem State.bumpI_ST (s : State) (x : Nibble) : (s.bumpI x).ST = s.ST := by
  unfold State.bumpI; split <;> rfl
@[simp] theorem State.bumpI_R (s : State) (x : Nibble) : (s.bumpI x).R = s.R := by
  unfold State.bumpI; split <;> rfl
@[simp] theorem State.bumpI_waitingForKey (s : State) (x : Nibble) : (s.bumpI x).waitingForKey = s.waitingForKey := by
  unfold State.bumpI; split <;> rfl
@[simp] theorem State.bumpI_waitingForKeyRegister (s : State) (x : Nibble) : (s.bumpI x).waitingForKeyRegister = s.waitingForKeyRegister := by
  unfold State.bumpI; split <;> rfl
@[simp] theorem State.bumpI_finished (s : State) (x : Nibble) : (s.bumpI x).finished = s.finished := by
  unfold State.bumpI; split <;> rfl
@[simp] theorem State.bumpI_pattern (s : State) (x : Nibble) : (s.bumpI x).pattern = s.pattern := by
  unfold State.bumpI; split <;> rfl
@[simp] theorem State.bumpI_planes (s : State) (x : Nibble) : (s.bumpI x).planes = s.planes := by
  unfold State.bumpI; split <;> rfl
@[simp] theorem State.bumpI_highResolution (s : State) (x : Nibble) : (s.bumpI x).highResolution = s.highResolution := by
  unfold State.bumpI; split <;> rfl
@[simp] theorem State.bumpI_planeMask (s : State) (x : Nibble) : (s.bumpI x).planeMask = s.planeMask := by
  unfold State.bumpI; split <;> rfl
@[simp] theorem State.bumpI_events (s : State) (x : Nibble) : (s.bumpI x).events = s.events := by
  unfold State.bumpI; split <;> rfl
@[simp] theorem State.bumpI_inputs (s : State) (x : Nibble) : (s.bumpI x).inputs = s.inputs := by
  unfold State.bumpI; split <;> rfl

/-! The changed fields. -/

@[simp] theorem State.advancePc_pc (s : State) : s.advancePc.pc = s.pc + 2 := rfl
@[simp] theorem State.skip_pc (s : State) : s.skip.pc = s.pc + 2 := rfl
@[simp] theorem State.emit_events (s : State) (e : Event) : (s.emit e).events = s.events ++ [e] := rfl
@[simp] theorem State.takeByte_inputs (s : State) :
    s.takeByte.inputs = { s.inputs with randomBytes := s.inputs.randomBytes.tail, taken := s.inputs.taken + 1 } := rfl
@[simp] theorem State.takeKeyAnswer_inputs (s : State) :
    s.takeKeyAnswer.inputs = { s.inputs with keyAnswers := s.inputs.keyAnswers.tail, taken := s.inputs.taken + 1 } := rfl
@[simp] theorem State.takeKeyPoll_inputs (s : State) :
    s.takeKeyPoll.inputs = { s.inputs with keyPolls := s.inputs.keyPolls.tail, taken := s.inputs.taken + 1 } := rfl
@[simp] theorem State.skipIf_pc (s : State) (p : Bool) : (s.skipIf p).pc = if p then s.pc + 2 else s.pc := by
  cases p <;> rfl
@[simp] theorem State.emitIf_events (s : State) (p : Bool) (e : Event) :
    (s.emitIf p e).events = if p then s.events ++ [e] else s.events := by
  cases p <;> rfl
@[simp] theorem State.bumpI_I (s : State) (x : Nibble) :
    (s.bumpI x).I = if incI s.config then s.I + (x.setWidth 16 + 1) else s.I := by
  unfold State.bumpI; split <;> rfl

/-! Readings that depend on one field. -/

theorem State.reg_congr {s t : State} (h : t.V = s.V) (x : Nibble) : t.reg x = s.reg x := by unfold State.reg; rw [h]
theorem State.readByte_congr {s t : State} (hc : t.config = s.config) (hm : t.memory = s.memory) (a : Nat) :
    t.readByte a = s.readByte a := by unfold State.readByte; rw [hc, hm]
theorem State.flagReg_congr {s t : State} (h : t.R = s.R) (k : BitVec 3) : t.flagReg k = s.flagReg k := by
  unfold State.flagReg; rw [h]
theorem State.selected_congr {s t : State} (hc : t.config = s.config) (hm : t.planeMask = s.planeMask) (p : Nat) :
    t.selected p = s.selected p := by unfold State.selected; rw [hc, hm]

end Sys2Proof.Machine
end

