-- ==== Sys2Proof/Laws/Memory.lean ====
section
/-! SUPPORT. Memory: read after write, and the canonical form is kept by every memory operation. -/

namespace Sys2Proof.Machine

/-! ### The cell list -/

theorem Memory.lookup_eq_none {m : List Host.Cell} {a : Nat} (h : ∀ p ∈ m, p.1 ≠ a) : Memory.lookup m a = none := by
  induction m with
  | nil => rfl
  | cons p m ih =>
    obtain ⟨k, b⟩ := p
    have hk : k ≠ a := h (k, b) (List.mem_cons_self ..)
    simp only [Memory.lookup, hk, if_false]
    exact ih (fun q hq => h q (List.mem_cons_of_mem _ hq))

theorem Memory.lookup_filter_self (m : List Host.Cell) (a : Nat) :
    Memory.lookup (m.filter (fun cell => cell.1 ≠ a)) a = none :=
  Memory.lookup_eq_none (fun p hp => by simpa using (List.mem_filter.mp hp).2)

theorem Memory.lookup_filter_ne (m : List Host.Cell) {a b : Nat} (h : b ≠ a) :
    Memory.lookup (m.filter (fun cell => cell.1 ≠ a)) b = Memory.lookup m b := by
  induction m with
  | nil => rfl
  | cons p m ih =>
    obtain ⟨k, v⟩ := p
    by_cases hk : k = a
    · subst hk
      simpa [Memory.lookup, h.symm] using ih
    · by_cases hb : k = b
      · subst hb; simp [Memory.lookup, hk]
      · simpa [Memory.lookup, hk, hb] using ih

theorem Memory.lookup_insert_self (a : Nat) (v : Byte) {m : List Host.Cell} (h : Memory.lookup m a = none) :
    Memory.lookup (Memory.insert a v m) a = some v := by
  induction m with
  | nil => simp [Memory.insert, Memory.lookup]
  | cons p m ih =>
    obtain ⟨k, b⟩ := p
    by_cases hk : k = a
    · subst hk; simp [Memory.lookup] at h
    · simp only [Memory.lookup, hk, if_false] at h
      unfold Memory.insert
      split
      · simp [Memory.lookup]
      · simp [Memory.lookup, hk, ih h]

theorem Memory.lookup_insert_ne {a b : Nat} (v : Byte) (m : List Host.Cell) (h : b ≠ a) :
    Memory.lookup (Memory.insert a v m) b = Memory.lookup m b := by
  induction m with
  | nil => simp [Memory.insert, Memory.lookup, h.symm]
  | cons p m ih =>
    obtain ⟨k, w⟩ := p
    unfold Memory.insert
    split
    · simp [Memory.lookup, h.symm]
    · simp [Memory.lookup, ih]

/-- Read after write, on the list itself: it needs no canonical form. -/
theorem Memory.read_write (c : Config) (m : List Host.Cell) (a b : Nat) (v : Byte) :
    Memory.read c (Memory.write c m a v) b = if b = a then v else Memory.read c m b := by
  unfold Memory.read Memory.write
  by_cases hb : b = a
  · subst hb
    by_cases hv : v = resetByte c b
    · simp only [hv, if_true, Memory.lookup_filter_self, Option.getD_none]
    · simp only [hv, if_false, if_true, Memory.lookup_insert_self b v (Memory.lookup_filter_self m b), Option.getD_some]
  · by_cases hv : v = resetByte c a
    · simp only [hv, hb, if_true, if_false, Memory.lookup_filter_ne m hb]
    · simp only [hv, hb, if_false, Memory.lookup_insert_ne v _ hb, Memory.lookup_filter_ne m hb]

theorem Memory.mem_insert {a : Nat} {v : Byte} {m : List Host.Cell} {p : Host.Cell} (h : p ∈ Memory.insert a v m) :
    p = (a, v) ∨ p ∈ m := by
  induction m with
  | nil => simpa [Memory.insert] using h
  | cons q m ih =>
    obtain ⟨k, b⟩ := q
    unfold Memory.insert at h
    split at h
    · simpa using h
    · rcases List.mem_cons.mp h with rfl | h
      · exact .inr (List.mem_cons_self ..)
      · exact (ih h).imp_right (List.mem_cons_of_mem _)

theorem Memory.insert_pairwise {a : Nat} (v : Byte) {m : List Host.Cell} (hm : m.Pairwise (fun p q => p.1 < q.1))
    (ha : ∀ p ∈ m, p.1 ≠ a) : (Memory.insert a v m).Pairwise (fun p q => p.1 < q.1) := by
  induction m with
  | nil => simp [Memory.insert]
  | cons q m ih =>
    obtain ⟨k, b⟩ := q
    obtain ⟨hk, hm⟩ := List.pairwise_cons.mp hm
    have hka : k ≠ a := ha (k, b) (List.mem_cons_self ..)
    unfold Memory.insert
    split
    next hlt =>
      refine List.pairwise_cons.mpr ⟨fun p hp => ?_, List.pairwise_cons.mpr ⟨hk, hm⟩⟩
      rcases List.mem_cons.mp hp with rfl | hp
      · exact hlt
      · exact Nat.lt_trans hlt (hk p hp)
    next hlt =>
      refine List.pairwise_cons.mpr ⟨fun p hp => ?_, ih hm (fun p hp => ha p (List.mem_cons_of_mem _ hp))⟩
      rcases Memory.mem_insert hp with rfl | hp
      · show k < a; omega
      · exact hk p hp

/-- The canonical form as a proposition. -/
theorem Memory.wf_iff (c : Config) (m : List Host.Cell) :
    Memory.wf c m = true ↔
      m.Pairwise (fun p q => p.1 < q.1) ∧ ∀ p ∈ m, p.1 < memorySize c ∧ p.2 ≠ resetByte c p.1 := by
  simp [Memory.wf, List.all_eq_true]

/-- Every memory write keeps the canonical form. -/
theorem Memory.write_wf {c : Config} {m : List Host.Cell} {a : Nat} (v : Byte) (hm : Memory.wf c m = true)
    (ha : a < memorySize c) : Memory.wf c (Memory.write c m a v) = true := by
  rw [Memory.wf_iff] at hm ⊢
  obtain ⟨hp, hall⟩ := hm
  have hp' : (m.filter (fun cell => cell.1 ≠ a)).Pairwise (fun p q => p.1 < q.1) := hp.filter _
  have hall' : ∀ p ∈ m.filter (fun cell => cell.1 ≠ a), p.1 < memorySize c ∧ p.2 ≠ resetByte c p.1 :=
    fun p hpm => hall p (List.mem_filter.mp hpm).1
  unfold Memory.write
  split
  · exact ⟨hp', hall'⟩
  next hv =>
    refine ⟨Memory.insert_pairwise v hp' (fun p hpm => by simpa using (List.mem_filter.mp hpm).2), fun p hpm => ?_⟩
    rcases Memory.mem_insert hpm with rfl | hpm
    · exact ⟨ha, hv⟩
    · exact hall' p hpm

/-! ### The state's memory -/

theorem memorySize_pos (c : Config) : 0 < memorySize c := by unfold memorySize; split <;> decide

/-- `Addr` stays inside the space (20_memory.md R82). -/
theorem addr_lt (c : Config) (a : Nat) : addr c a < memorySize c := by
  have := memorySize_pos c
  unfold addr
  split
  · exact Nat.mod_lt _ this
  · omega

/-- Read after write through `Addr` (R83). -/
theorem State.readByte_writeByte (s : State) (a b : Nat) (v : Byte) :
    (s.writeByte a v).readByte b = if addr s.config b = addr s.config a then v else s.readByte b :=
  Memory.read_write s.config s.memory (addr s.config a) (addr s.config b) v

/-- The memory of the state is in canonical form. -/
def State.memoryWf (s : State) : Prop := Memory.wf s.config s.memory = true

theorem State.writeByte_wf {s : State} (a : Nat) (v : Byte) (h : s.memoryWf) : (s.writeByte a v).memoryWf :=
  Memory.write_wf v h (addr_lt s.config a)

/-- Nothing listed is canonical, so `Initialise()` gives the canonical form. -/
theorem State.initialise_memoryWf (c : Config) : (State.initialise c).memoryWf := rfl

/-! ### Loops of byte writes -/

/-- A loop that writes byte `v k` at `a k` in turn: an address none of them names reads as before, and the last write to an
address is the one read. -/
theorem readByte_forUpTo_write (n : Nat) (a : Nat → Nat) (v : Nat → Byte) (s : State) (b : Nat) :
    (forUpTo n (fun k t => State.writeByte t (a k) (v k)) s).config = s.config ∧
      ((∀ k < n, addr s.config b ≠ addr s.config (a k)) →
        (forUpTo n (fun k t => State.writeByte t (a k) (v k)) s).readByte b = s.readByte b) ∧
      (∀ k < n, addr s.config b = addr s.config (a k) → (∀ j < n, k < j → addr s.config b ≠ addr s.config (a j)) →
        (forUpTo n (fun k t => State.writeByte t (a k) (v k)) s).readByte b = v k) := by
  induction n with
  | zero => exact ⟨rfl, fun _ => rfl, fun k hk => absurd hk (Nat.not_lt_zero k)⟩
  | succ n ih =>
    obtain ⟨hc, hout, hin⟩ := ih
    refine ⟨hc, fun h => ?_, fun k hk he hlast => ?_⟩
    · rw [forUpTo_succ, State.readByte_writeByte, hc, if_neg (h n (Nat.lt_succ_self n))]
      exact hout (fun k hk => h k (Nat.lt_succ_of_lt hk))
    · rw [forUpTo_succ, State.readByte_writeByte, hc]
      by_cases hkn : k = n
      · subst hkn; rw [if_pos he]
      · have hk' : k < n := by omega
        rw [if_neg (hlast n (Nat.lt_succ_self n) hk')]
        exact hin k hk' he (fun j hj => hlast j (Nat.lt_succ_of_lt hj))

end Sys2Proof.Machine
end

