-- ==== Sys2Proof/Laws/Registers.lean ====
section
/-! SUPPORT. Registers: read after write, range stores and loads, and what the flag-writing operation leaves. -/

namespace Sys2Proof.Machine

@[simp] theorem State.reg_setReg (s : State) (x y : Nibble) (v : Byte) :
    (s.setReg x v).reg y = if y = x then v else s.reg y := by
  simp only [State.reg, State.setReg, Vector.getElem_set]
  by_cases h : y = x
  · subst h; simp
  · have : x.toNat ≠ y.toNat := fun e => h (BitVec.eq_of_toNat_eq e.symm)
    simp [h, this]

@[simp] theorem State.flagReg_setFlagReg (s : State) (j k : BitVec 3) (v : Byte) :
    (s.setFlagReg j v).flagReg k = if k = j then v else s.flagReg k := by
  simp only [State.flagReg, State.setFlagReg, Vector.getElem_set]
  by_cases h : k = j
  · subst h; simp
  · have : j.toNat ≠ k.toNat := fun e => h (BitVec.eq_of_toNat_eq e.symm)
    simp [h, this]

@[simp] theorem State.stackEntry_setStackEntry (s : State) (i j : Nibble) (v : Word) :
    (s.setStackEntry i v).stackEntry j = if j = i then v else s.stackEntry j := by
  simp only [State.stackEntry, State.setStackEntry, Vector.getElem_set]
  by_cases h : j = i
  · subst h; simp
  · have : i.toNat ≠ j.toNat := fun e => h (BitVec.eq_of_toNat_eq e.symm)
    simp [h, this]

@[simp] theorem State.readByte_setReg (s : State) (x : Nibble) (v : Byte) (a : Nat) :
    (s.setReg x v).readByte a = s.readByte a := rfl

@[simp] theorem State.reg_writeByte (s : State) (x : Nibble) (v : Byte) (a : Nat) :
    (s.writeByte a v).reg x = s.reg x := rfl

@[simp] theorem State.flagReg_setReg (s : State) (x : Nibble) (v : Byte) (k : BitVec 3) :
    (s.setReg x v).flagReg k = s.flagReg k := rfl

@[simp] theorem State.reg_setFlagReg (s : State) (x : Nibble) (v : Byte) (k : BitVec 3) :
    (s.setFlagReg k v).reg x = s.reg x := rfl

/-- Two states with the same registers, read one by one, have the same register file. -/
theorem State.V_ext {s t : State} (h : ∀ x, t.reg x = s.reg x) : t.V = s.V := by
  apply Vector.ext
  intro i hi
  have := h (BitVec.ofNat 4 i)
  simpa [State.reg, Nat.mod_eq_of_lt hi] using this

/-! ### Range stores and loads (42_index_memory_ops.md R306) -/

/-- A range store changes memory only: it is a loop of writes of the registers as they were. -/
theorem storeRegs_eq (n : Nat) (reg : Nat → Nibble) (s : State) :
    storeRegs n reg s = forUpTo n (fun k t => State.writeByte t (s.indexed k) (s.reg (reg k))) s := by
  have key : ∀ t : State, storeRegs n reg s = t →
      t = forUpTo n (fun k t => State.writeByte t (s.indexed k) (s.reg (reg k))) s ∧ t.I = s.I ∧ t.V = s.V := by
    induction n with
    | zero => rintro t rfl; exact ⟨rfl, rfl, rfl⟩
    | succ n ih =>
      rintro t rfl
      obtain ⟨he, hI, hV⟩ := ih _ rfl
      refine ⟨?_, hI, hV⟩
      show (storeRegs n reg s).writeByte ((storeRegs n reg s).indexed n) ((storeRegs n reg s).reg (reg n)) = _
      rw [forUpTo_succ, ← he, State.reg_congr hV, State.indexed, hI, State.indexed]
  exact (key _ rfl).1

/-- A loop of byte writes changes memory only. -/
theorem forUpTo_writeByte_memory (n : Nat) (a : Nat → Nat) (v : Nat → Byte) (s : State) :
    forUpTo n (fun k t => State.writeByte t (a k) (v k)) s =
      { s with memory := (forUpTo n (fun k t => State.writeByte t (a k) (v k)) s).memory } := by
  induction n with
  | zero => rfl
  | succ n ih => rw [forUpTo_succ, ih]; rfl

theorem storeRegs_memory (n : Nat) (reg : Nat → Nibble) (s : State) :
    storeRegs n reg s = { s with memory := (storeRegs n reg s).memory } := by
  rw [storeRegs_eq]; exact forUpTo_writeByte_memory ..

theorem storeRegs_wf {s : State} (n : Nat) (reg : Nat → Nibble) (h : s.memoryWf) : (storeRegs n reg s).memoryWf :=
  forUpTo_induction (fun _ t => t.memoryWf) n _ s h (fun _ _ _ ht => State.writeByte_wf _ _ ht)

/-- A range load changes the registers only. -/
theorem loadRegs_V (n : Nat) (reg : Nat → Nibble) (s : State) :
    loadRegs n reg s = { s with V := (loadRegs n reg s).V } := by
  unfold loadRegs
  induction n with
  | zero => rfl
  | succ n ih => rw [forUpTo_succ, ih]; rfl

/-- A range load reads memory as it was. -/
theorem loadRegs_succ (n : Nat) (reg : Nat → Nibble) (s : State) :
    loadRegs (n + 1) reg s = (loadRegs n reg s).setReg (reg n) (s.readByte (s.indexed n)) := by
  show (loadRegs n reg s).setReg (reg n) ((loadRegs n reg s).readByte ((loadRegs n reg s).indexed n)) = _
  rw [loadRegs_V n reg s]; rfl

/-- A range load over distinct registers: each holds its byte, every other register its old value. -/
theorem reg_loadRegs (n : Nat) (reg : Nat → Nibble) (s : State) (hinj : ∀ j < n, ∀ k < n, reg j = reg k → j = k) :
    (∀ k < n, (loadRegs n reg s).reg (reg k) = s.readByte (s.indexed k)) ∧
      (∀ r, (∀ k < n, r ≠ reg k) → (loadRegs n reg s).reg r = s.reg r) := by
  induction n with
  | zero => exact ⟨fun k hk => absurd hk (Nat.not_lt_zero k), fun _ _ => rfl⟩
  | succ n ih =>
    obtain ⟨hin, hout⟩ := ih (fun j hj k hk => hinj j (by omega) k (by omega))
    refine ⟨fun k hk => ?_, fun r hr => ?_⟩
    · rw [loadRegs_succ, State.reg_setReg]
      by_cases hkn : k = n
      · subst hkn; rw [if_pos rfl]
      · rw [if_neg (fun e => hkn (hinj k hk n (Nat.lt_succ_self n) e))]
        exact hin k (by omega)
    · rw [loadRegs_succ, State.reg_setReg, if_neg (hr n (Nat.lt_succ_self n))]
      exact hout r (fun k hk => hr k (Nat.lt_succ_of_lt hk))

theorem rangeRegister_injective {x y : Nibble} {j k : Nat} (hj : j ≤ rangeDistance x y) (hk : k ≤ rangeDistance x y)
    (h : rangeRegister x y j = rangeRegister x y k) : j = k := by
  have hx := x.isLt
  have hy := y.isLt
  unfold rangeDistance at hj hk
  unfold rangeRegister at h
  split at h <;> rename_i hxy <;> simp only [hxy, if_true, if_false] at hj hk
  all_goals
    have h' := congrArg BitVec.toNat h
    simp only [BitVec.toNat_add, BitVec.toNat_sub, BitVec.toNat_ofNat] at h'
    omega

/-! ### The flag-writing operation (41_register_ops.md R251) -/

/-- `FlagOp` changes the registers only. -/
theorem flagOp_V (x s1 s2 : Nibble) (flag result : Byte → Byte → Byte) (s : State) :
    flagOp x s1 s2 flag result s = { s with V := (flagOp x s1 s2 flag result s).V } := by
  unfold flagOp; split <;> rfl

/-- `FlagOp` under FlagFirst: the result reads the registers after the flag is written, and is written last. -/
theorem reg_flagOp_flagFirst (x s1 s2 r : Nibble) (flag result : Byte → Byte → Byte) (s : State)
    (h : s.config.flagWriteOrder = .flagFirst) :
    (flagOp x s1 s2 flag result s).reg r =
      (let u := fun q => if q = vf then flag (s.reg s1) (s.reg s2) else s.reg q
       if r = x then result (u s1) (u s2) else u r) := by
  simp [flagOp, h]

/-- `FlagOp` under FlagLast: both values come from the old registers, and the flag is written last. -/
theorem reg_flagOp_flagLast (x s1 s2 r : Nibble) (flag result : Byte → Byte → Byte) (s : State)
    (h : s.config.flagWriteOrder = .flagLast) :
    (flagOp x s1 s2 flag result s).reg r =
      if r = vf then flag (s.reg s1) (s.reg s2) else if r = x then result (s.reg s1) (s.reg s2) else s.reg r := by
  simp [flagOp, h]

/-- `ADD I,Vx` changes `I` and the registers only. -/
theorem addIndexOp_I_V (x : Nibble) (s : State) :
    addIndexOp x s = { s with I := (addIndexOp x s).I, V := (addIndexOp x s).V } := by
  unfold addIndexOp; split <;> rfl

end Sys2Proof.Machine
end

