-- ==== Sys2Proof/Laws/Display.lean ====
section
/-! SUPPORT. What the display engine's primitives leave in each cell (44_display_engine.md). -/

namespace Sys2Proof.Machine

/-! ### One plane, cell by cell -/

@[simp] theorem Plane.cell_single (i j : Nat) : Plane.cell (Plane.single i) j = (decide (j = i) && decide (j < 8192)) := by
  simp only [Plane.cell, Plane.single, BitVec.getLsbD_shiftLeft, BitVec.getLsbD_one]
  by_cases h : j = i
  · subst h; simp
  · rcases Nat.lt_or_ge j i with hlt | hge
    · simp [h, hlt]
    · have : ¬ (j - i = 0) := by omega
      simp [h, this]

theorem Plane.cell_toggle (pl : Plane) (i j : Nat) (hi : i < 8192) :
    Plane.cell (Plane.toggle pl i) j = (Plane.cell pl j ^^ decide (j = i)) := by
  have h : Plane.cell (Plane.toggle pl i) j = (Plane.cell pl j ^^ Plane.cell (Plane.single i) j) := by
    simp [Plane.cell, Plane.toggle]
  rw [h, Plane.cell_single]
  by_cases hj : j = i
  · subst hj; simp [hi]
  · simp [hj]

@[simp] theorem Plane.cell_ones (n i : Nat) : Plane.cell (Plane.ones n) i = (decide (i < n) && decide (i < 8192)) := by
  simp only [Plane.cell, Plane.ones, BitVec.getLsbD_ofNat, Nat.testBit_two_pow_sub_one]
  exact Bool.and_comm _ _

theorem Plane.cell_eq_false {pl : Plane} {i : Nat} (h : 8192 ≤ i) : Plane.cell pl i = false :=
  BitVec.getLsbD_of_ge pl i h

theorem Plane.cell_rowMask (w r i : Nat) :
    Plane.cell (Plane.rowMask w r) i = (decide (r * w ≤ i) && decide (i < r * w + w) && decide (i < 8192)) := by
  have h : Plane.cell (Plane.rowMask w r) i =
      (decide (i < 8192) && !decide (i < r * w) && Plane.cell (Plane.ones w) (i - r * w)) := by
    simp [Plane.cell, Plane.rowMask, BitVec.getLsbD_shiftLeft]
  rw [h, Plane.cell_ones, Bool.eq_iff_iff]
  simp
  omega

/-- Cell `i` lies in column `c` of a screen `w` wide, rows 0..h-1. -/
theorem Plane.cell_columnMask (w h c i : Nat) (hc : c < w) :
    Plane.cell (Plane.columnMask w h c) i = (decide (i % w = c) && decide (i < h * w) && decide (i < 8192)) := by
  have key : ∀ n, Plane.cell (forUpTo n (fun Y m => m ||| Plane.single (Y * w + c)) 0) i =
      (decide (i % w = c) && decide (i < n * w) && decide (i < 8192)) := by
    intro n
    induction n with
    | zero => simp [Plane.cell]
    | succ n ih =>
      have hor : Plane.cell (forUpTo (n + 1) (fun Y m => m ||| Plane.single (Y * w + c)) 0) i =
          (Plane.cell (forUpTo n (fun Y m => m ||| Plane.single (Y * w + c)) 0) i
            || Plane.cell (Plane.single (n * w + c)) i) := by
        rw [forUpTo_succ]; simp [Plane.cell]
      rw [hor, ih, Plane.cell_single, Bool.eq_iff_iff]
      have hdiv : i = n * w + c ↔ (i % w = c ∧ n * w ≤ i ∧ i < n * w + w) := by
        constructor
        · rintro rfl
          refine ⟨?_, by omega, by omega⟩
          rw [Nat.mul_comm, Nat.mul_add_mod, Nat.mod_eq_of_lt hc]
        · rintro ⟨hm, h1, h2⟩
          have hq : i / w = n := by
            exact Nat.div_eq_of_lt_le (by omega) (by rw [Nat.succ_mul]; omega)
          have := Nat.div_add_mod i w
          rw [hq, hm, Nat.mul_comm] at this
          omega
      have hsucc : (n + 1) * w = n * w + w := Nat.succ_mul n w
      simp only [Bool.or_eq_true, Bool.and_eq_true, decide_eq_true_eq, hdiv, hsucc]
      constructor
      · rintro (⟨⟨h1, h2⟩, h3⟩ | ⟨⟨h1, h2, h4⟩, h3⟩)
        · exact ⟨⟨h1, by omega⟩, h3⟩
        · exact ⟨⟨h1, h4⟩, h3⟩
      · rintro ⟨⟨h1, h2⟩, h3⟩
        by_cases hi : i < n * w
        · exact .inl ⟨⟨h1, hi⟩, h3⟩
        · exact .inr ⟨⟨h1, by omega, h2⟩, h3⟩
  exact key h

/-- Cells of a copied row (R411). -/
theorem Plane.cell_copyRow (w src dst i : Nat) (pl : Plane) (hd : (dst + 1) * w ≤ 8192) (hs : (src + 1) * w ≤ 8192) :
    Plane.cell (Plane.copyRow w src dst pl) i =
      if dst * w ≤ i ∧ i < dst * w + w then Plane.cell pl (src * w + (i - dst * w)) else Plane.cell pl i := by
  rw [Nat.succ_mul] at hd hs
  have h : Plane.cell (Plane.copyRow w src dst pl) i =
      ((Plane.cell pl i && (decide (i < 8192) && !Plane.cell (Plane.rowMask w dst) i)) ||
        (decide (i < 8192) && !decide (i < dst * w) &&
          (Plane.cell pl (src * w + (i - dst * w)) && Plane.cell (Plane.rowMask w src) (src * w + (i - dst * w))))) := by
    simp [Plane.cell, Plane.copyRow, BitVec.getLsbD_shiftLeft, BitVec.getLsbD_ushiftRight]
  rw [h, Plane.cell_rowMask, Plane.cell_rowMask]
  by_cases hi : i < 8192
  · by_cases h1 : dst * w ≤ i
    · by_cases h2 : i < dst * w + w
      · have h3 : i - dst * w < w := by omega
        have h4 : src * w + (i - dst * w) < 8192 := by omega
        simp [hi, h1, h2, h3, h4]
      · have h3 : ¬ (i - dst * w < w) := by omega
        simp [hi, h1, h2, h3]
    · have h1' : i < dst * w := by omega
      simp [hi, h1, h1']
  · have h2 : ¬ (dst * w ≤ i ∧ i < dst * w + w) := by omega
    rw [if_neg h2, Plane.cell_eq_false (by omega : 8192 ≤ i)]
    simp [hi]

/-- Cells of a cleared row (R413). -/
theorem Plane.cell_clearRow (w r i : Nat) (pl : Plane) :
    Plane.cell (Plane.clearRow w r pl) i = if r * w ≤ i ∧ i < r * w + w then false else Plane.cell pl i := by
  have h : Plane.cell (Plane.clearRow w r pl) i =
      (Plane.cell pl i && (decide (i < 8192) && !Plane.cell (Plane.rowMask w r) i)) := by
    simp [Plane.cell, Plane.clearRow]
  rw [h, Plane.cell_rowMask]
  by_cases hi : i < 8192
  · by_cases h1 : r * w ≤ i <;> by_cases h2 : i < r * w + w <;> simp [hi, h1, h2]
  · rw [Plane.cell_eq_false (by omega : 8192 ≤ i)]; simp

/-- Cells of a copied column (R412). -/
theorem Plane.cell_copyColumn (w h src dst i : Nat) (pl : Plane) (hsz : h * w ≤ 8192) (hd : dst < w) (hs : src < w) :
    Plane.cell (Plane.copyColumn w h src dst pl) i =
      if i % w = dst ∧ i < h * w then Plane.cell pl (i / w * w + src) else Plane.cell pl i := by
  have hb : Plane.cell (Plane.copyColumn w h src dst pl) i =
      ((Plane.cell pl i && (decide (i < 8192) && !Plane.cell (Plane.columnMask w h dst) i)) ||
        (decide (i < 8192) && !decide (i < dst) &&
          (Plane.cell pl (src + (i - dst)) && Plane.cell (Plane.columnMask w h src) (src + (i - dst))))) := by
    simp [Plane.cell, Plane.copyColumn, BitVec.getLsbD_shiftLeft, BitVec.getLsbD_ushiftRight]
  rw [hb, Plane.cell_columnMask _ _ _ _ hd, Plane.cell_columnMask _ _ _ _ hs]
  have hw : 0 < w := by omega
  have hdm := Nat.div_add_mod i w
  rw [Nat.mul_comm] at hdm
  by_cases hm : i % w = dst
  · have hge : ¬ (i < dst) := by omega
    have hj : src + (i - dst) = i / w * w + src := by omega
    have hjm : (i / w * w + src) % w = src := by
      rw [Nat.mul_comm, Nat.mul_add_mod, Nat.mod_eq_of_lt hs]
    rw [hj, hjm]
    by_cases hlt : i < h * w
    · have hq : i / w < h := by
        rw [Nat.div_lt_iff_lt_mul hw]; exact hlt
      have hj2 : i / w * w + src < h * w := by
        have : (i / w + 1) * w ≤ h * w := Nat.mul_le_mul_right w hq
        rw [Nat.succ_mul] at this
        omega
      have : i / w * w + src < 8192 := by omega
      have : i < 8192 := by omega
      simp [*]
    · have hj2 : ¬ (i / w * w + src < h * w) := by
        have hq : h ≤ i / w := by
          rw [Nat.le_div_iff_mul_le hw]; omega
        have : h * w ≤ i / w * w := Nat.mul_le_mul_right w hq
        omega
      by_cases hi : i < 8192
      · simp [hm, hlt, hj2, hi]
      · rw [Plane.cell_eq_false (by omega : 8192 ≤ i)]; simp [hm, hlt, hj2]
  · have hne : ¬ (dst ≤ i ∧ (src + (i - dst)) % w = src ∧ src + (i - dst) < h * w) := by
      rintro ⟨hge, hmod, -⟩
      apply hm
      have h1 : (src + (i - dst)) % w = src % w := by rw [hmod, Nat.mod_eq_of_lt hs]
      have h2 : (i - dst) % w = 0 := by
        have := (Nat.ModEq.add_left_cancel' src (show src + (i - dst) ≡ src + 0 [MOD w] from h1))
        simpa [Nat.ModEq] using this
      have h3 : i = dst + (i - dst) := by omega
      rw [h3, Nat.add_mod, h2, Nat.add_zero, Nat.mod_mod, Nat.mod_eq_of_lt hd]
    have h2 : ¬ (i % w = dst ∧ i < h * w) := fun hh => hm hh.1
    rw [if_neg h2]
    by_cases hi : i < 8192
    · simp only [hi, hm, decide_true, decide_false, Bool.false_and, Bool.not_false, Bool.and_true, Bool.true_and,
        Bool.or_eq_left_iff_imp]
      intro hh
      simp at hh
      exact absurd ⟨by omega, hh.2.2.1.1, hh.2.2.1.2⟩ hne
    · rw [Plane.cell_eq_false (by omega : 8192 ≤ i)]; simp [hi]

/-- Cells of a cleared column (R414). -/
theorem Plane.cell_clearColumn (w h c i : Nat) (pl : Plane) (hc : c < w) :
    Plane.cell (Plane.clearColumn w h c pl) i = if i % w = c ∧ i < h * w then false else Plane.cell pl i := by
  have hb : Plane.cell (Plane.clearColumn w h c pl) i =
      (Plane.cell pl i && (decide (i < 8192) && !Plane.cell (Plane.columnMask w h c) i)) := by
    simp [Plane.cell, Plane.clearColumn]
  rw [hb, Plane.cell_columnMask _ _ _ _ hc]
  by_cases hi : i < 8192
  · by_cases h1 : i % w = c <;> by_cases h2 : i < h * w <;> simp [hi, h1, h2]
  · rw [Plane.cell_eq_false (by omega : 8192 ≤ i)]; simp

/-- Cells of a kept prefix (R419). -/
@[simp] theorem Plane.cell_keepPrefix (n i : Nat) (pl : Plane) :
    Plane.cell (Plane.keepPrefix n pl) i = (Plane.cell pl i && decide (i < n)) := by
  have h : Plane.cell (Plane.keepPrefix n pl) i = (Plane.cell pl i && Plane.cell (Plane.ones n) i) := by
    simp [Plane.cell, Plane.keepPrefix]
  rw [h, Plane.cell_ones]
  by_cases hi : i < 8192
  · simp [hi]
  · rw [Plane.cell_eq_false (by omega : 8192 ≤ i)]; simp

/-- Two planes with the same cells are the same plane. -/
theorem Plane.ext {p q : Plane} (h : ∀ i, Plane.cell p i = Plane.cell q i) : p = q :=
  BitVec.eq_of_getLsbD_eq (fun i _ => h i)

/-! ### The selected planes -/

/-- A primitive on the selected planes, plane by plane (R401). -/
theorem State.plane_mapSelected (s : State) (f : Plane → Plane) (p : Nat) (hp : p < s.planes.length) :
    (s.mapSelected f).plane p = if s.selected p then f (s.plane p) else s.plane p := by
  simp [State.plane, State.mapSelected, hp]

@[simp] theorem State.mapSelected_length (s : State) (f : Plane → Plane) :
    (s.mapSelected f).planes.length = s.planes.length := by simp [State.mapSelected]

end Sys2Proof.Machine
end

