-- ==== Sys2Proof/Laws/Blit.lean ====
section
/-! SUPPORT. What the sprite blitter leaves in each cell of a plane, and which sprite rows it counts (44_display_engine.md §3). -/

namespace Sys2Proof.Machine

/-- A cell's number tells its row and column. -/
theorem cell_index_inj {w X Y X' Y' : Nat} (hX : X < w) (hX' : X' < w) (h : Y * w + X = Y' * w + X') : X = X' ∧ Y = Y' := by
  have hm : X = X' := by
    have := congrArg (· % w) h
    simpa [Nat.mul_comm _ w, Nat.mul_add_mod, Nat.mod_eq_of_lt hX, Nat.mod_eq_of_lt hX'] using this
  subst hm
  refine ⟨rfl, ?_⟩
  have hw : 0 < w := by omega
  exact Nat.eq_of_mul_eq_mul_right hw (by omega)

/-- A screen has at most 8192 cells (10_state.md R48). -/
theorem State.cells_le (s : State) : s.height * s.width ≤ 8192 := by
  unfold State.height State.width; split <;> decide

theorem State.cell_lt {s : State} {X Y : Nat} (hX : X < s.width) (hY : Y < s.height) : Y * s.width + X < 8192 := by
  have h : (Y + 1) * s.width ≤ s.height * s.width := Nat.mul_le_mul_right _ hY
  rw [Nat.succ_mul] at h
  have := s.cells_le
  omega

/-- Sprite row `r`, column `c` puts a pixel into cell `i` (R403, R406, R407). -/
def puts (s : State) (a dx dy width r c i : Nat) : Prop :=
  s.spriteBit a width r c = true ∧ dy + r < s.height ∧ dx + c < s.width ∧ i = (dy + r) * s.width + (dx + c)

/-- Sprite row `r`, column `c` is a hit on plane `pl`: the bottom edge (R406) or a lit pixel (R403). -/
def hits (s : State) (a dx dy width r c : Nat) (pl : Plane) : Prop :=
  s.spriteBit a width r c = true ∧
    (s.height ≤ dy + r ∨
      (dy + r < s.height ∧ dx + c < s.width ∧ Plane.cell pl ((dy + r) * s.width + (dx + c)) = true))

/-- One row, column by column. -/
theorem blitRow_loop (s : State) (a dx dy width r n : Nat) (pl : Plane) :
    let b := forUpTo n
      (fun c b => if s.spriteBit a width r c then blitPixel s.width s.height (dx + c) (dy + r) b else b)
      ({ plane := pl, hit := false } : Blit)
    (∀ i, Plane.cell b.plane i = true ↔ ¬ (Plane.cell pl i = true ↔ ∃ c, c < n ∧ puts s a dx dy width r c i)) ∧
      (b.hit = true ↔ ∃ c, c < n ∧ hits s a dx dy width r c pl) := by
  induction n with
  | zero => simp
  | succ n ih =>
    obtain ⟨ihc, ihh⟩ := ih
    simp only [forUpTo_succ]
    generalize forUpTo n _ _ = b at ihc ihh ⊢
    have hex : ∀ P : Nat → Prop, (∃ c, c < n + 1 ∧ P c) ↔ ((∃ c, c < n ∧ P c) ∨ P n) := by
      intro P
      constructor
      · rintro ⟨c, hc, h⟩
        by_cases hcn : c = n
        · exact .inr (hcn ▸ h)
        · exact .inl ⟨c, by omega, h⟩
      · rintro (⟨c, hc, h⟩ | h)
        · exact ⟨c, by omega, h⟩
        · exact ⟨n, by omega, h⟩
    simp only [hex]
    by_cases hb : s.spriteBit a width r n = true
    · rw [if_pos hb]
      by_cases hY : dy + r ≥ s.height
      · have hp : ∀ i, ¬ puts s a dx dy width r n i := fun i h => by have := h.2.1; omega
        have hh : hits s a dx dy width r n pl := ⟨hb, .inl hY⟩
        simp only [blitPixel, if_pos hY]
        exact ⟨fun i => by simp only [hp i, or_false]; exact ihc i, by simp [hh]⟩
      · by_cases hX : dx + n < s.width
        · have hlt : (dy + r) * s.width + (dx + n) < 8192 := State.cell_lt hX (by omega)
          simp only [blitPixel, if_neg hY, if_pos hX]
          refine ⟨fun i => ?_, ?_⟩
          · rw [Plane.cell_toggle _ _ _ hlt]
            have := ihc i
            by_cases hi : i = (dy + r) * s.width + (dx + n)
            · have hp : puts s a dx dy width r n i := ⟨hb, by omega, hX, hi⟩
              have hnone : ¬ ∃ c, c < n ∧ puts s a dx dy width r c i := by
                rintro ⟨c, hc, _, _, hcX, hci⟩
                have := (cell_index_inj hcX hX (hci.symm.trans hi)).1
                omega
              simp only [hnone, iff_false, Classical.not_not] at this
              simp only [hp, or_true, iff_true, decide_eq_true hi, Bool.xor_true, Bool.not_eq_true', ← this,
                Bool.not_eq_true]
            · have hp : ¬ puts s a dx dy width r n i := fun h => hi h.2.2.2
              simp only [hp, or_false, decide_eq_false hi, Bool.xor_false]
              exact this
          · have hcell := ihc ((dy + r) * s.width + (dx + n))
            have hnone : ¬ ∃ c, c < n ∧ puts s a dx dy width r c ((dy + r) * s.width + (dx + n)) := by
              rintro ⟨c, hc, _, _, hcX, hci⟩
              have := (cell_index_inj hcX hX hci.symm).1
              omega
            simp only [hnone, iff_false, Classical.not_not] at hcell
            rw [Bool.or_eq_true, ihh, hcell]
            have : hits s a dx dy width r n pl ↔ Plane.cell pl ((dy + r) * s.width + (dx + n)) = true :=
              ⟨fun h => h.2.elim (fun h => absurd h hY) (fun h => h.2.2), fun h => ⟨hb, .inr ⟨by omega, hX, h⟩⟩⟩
            rw [this]
        · have hp : ∀ i, ¬ puts s a dx dy width r n i := fun i h => hX h.2.2.1
          have hh : ¬ hits s a dx dy width r n pl := fun h => h.2.elim hY (fun h => hX h.2.1)
          simp only [blitPixel, if_neg hY, if_neg hX]
          exact ⟨fun i => by simp only [hp i, or_false]; exact ihc i, by simp only [hh, or_false]; exact ihh⟩
    · have hp : ∀ i, ¬ puts s a dx dy width r n i := fun i h => hb h.1
      have hh : ¬ hits s a dx dy width r n pl := fun h => hb h.1
      rw [if_neg hb]
      exact ⟨fun i => by simp only [hp i, or_false]; exact ihc i, by simp only [hh, or_false]; exact ihh⟩

/-- One plane, row by row: the XOR of the sprite's cells, and the number of rows with a hit on the plane as it was before
(R403, R405). `dx` and `dy` are the draw origin. -/
theorem drawPlane_spec (s : State) (a dx dy width height : Nat) (pl : Plane) (ox oy : Nat)
    (hx : drawOrigin s.config dx s.width = ox) (hy : drawOrigin s.config dy s.height = oy) :
    (∀ i, Plane.cell (drawPlane s a dx dy width height pl).plane i = true ↔
        ¬ (Plane.cell pl i = true ↔ ∃ r, r < height ∧ ∃ c, c < width ∧ puts s a ox oy width r c i)) ∧
      ∀ p : Nat → Bool, (∀ r, p r = true ↔ ∃ c, c < width ∧ hits s a ox oy width r c pl) →
        (drawPlane s a dx dy width height pl).rows = (List.range height).countP p := by
  unfold drawPlane
  simp only [hx, hy]
  induction height with
  | zero => simp
  | succ n ih =>
    obtain ⟨ihc, ihr⟩ := ih
    simp only [forUpTo_succ]
    generalize forUpTo n _ _ = d at ihc ihr ⊢
    have hrow := blitRow_loop s a ox oy width n width d.plane
    have hb : blitRow s a ox oy width n d.plane = forUpTo width
      (fun c b => if s.spriteBit a width n c then blitPixel s.width s.height (ox + c) (oy + n) b else b)
      ({ plane := d.plane, hit := false } : Blit) := rfl
    rw [← hb] at hrow
    generalize blitRow s a ox oy width n d.plane = b at hrow ⊢
    obtain ⟨hc, hh⟩ := hrow
    have hex : ∀ P : Nat → Prop, (∃ r, r < n + 1 ∧ P r) ↔ ((∃ r, r < n ∧ P r) ∨ P n) := by
      intro P
      constructor
      · rintro ⟨r, hr, h⟩
        by_cases hrn : r = n
        · exact .inr (hrn ▸ h)
        · exact .inl ⟨r, by omega, h⟩
      · rintro (⟨r, hr, h⟩ | h)
        · exact ⟨r, by omega, h⟩
        · exact ⟨n, by omega, h⟩
    have hfresh : ∀ c i, puts s a ox oy width n c i → ¬ ∃ r, r < n ∧ ∃ c, c < width ∧ puts s a ox oy width r c i := by
      rintro c i ⟨_, _, hX, hi⟩ ⟨r, hr, c', _, _, _, hX', hi'⟩
      have := (cell_index_inj hX hX' (hi.symm.trans hi')).2
      omega
    refine ⟨fun i => ?_, fun p hp => ?_⟩
    · rw [hc, ihc, hex]
      by_cases hn : ∃ c, c < width ∧ puts s a ox oy width n c i
      · have hno : ¬ ∃ r, r < n ∧ ∃ c, c < width ∧ puts s a ox oy width r c i := by
          obtain ⟨c, _, h⟩ := hn; exact hfresh c i h
        simp only [hn, hno, iff_true, or_true, iff_false, Classical.not_not]
      · simp only [hn, iff_false, or_false, Classical.not_not]
    · rw [List.range_succ, List.countP_append, ihr p hp]
      have hrow : b.hit = p n := by
        rw [Bool.eq_iff_iff, hh, hp]
        have hsame : ∀ c, hits s a ox oy width n c d.plane ↔ hits s a ox oy width n c pl := by
          intro c
          unfold hits
          refine and_congr_right fun hbit => or_congr_right (and_congr_right fun hY => and_congr_right fun hX => ?_)
          have := hfresh c _ ⟨hbit, hY, hX, rfl⟩
          rw [ihc]
          simp only [this, iff_false, Classical.not_not]
        simp only [hsame]
      rw [hrow]
      cases hpn : p n <;> simp [hpn]

/-- Where plane `p`'s sprite data begins: unselected planes consume none (R402). -/
def planeData (s : State) (a width height p : Nat) : Nat :=
  a + height * (width / 8) * (List.range p).countP fun q => s.selected q

/-- The draw, plane by plane: each selected plane is drawn from its own data, the others stay, the counts add up (R402). -/
theorem draw_loop (s : State) (a dx dy width height n : Nat) (hn : n ≤ s.planes.length) :
    let g := forUpTo n
      (fun p g =>
        if s.selected p then
          let d := drawPlane s g.address dx dy width height (g.planes.getD p 0)
          ({ planes := g.planes.set p d.plane, count := g.count + d.rows, address := g.address + height * (width / 8) } :
            Drawing)
        else g)
      { planes := s.planes, count := 0, address := a }
    g.planes.length = s.planes.length ∧ g.address = planeData s a width height n ∧
      (∀ p, g.planes.getD p 0 =
        if p < n ∧ s.selected p = true then
          (drawPlane s (planeData s a width height p) dx dy width height (s.plane p)).plane
        else s.plane p) ∧
      g.count = ((List.range n).map fun p =>
        if s.selected p then (drawPlane s (planeData s a width height p) dx dy width height (s.plane p)).rows
        else 0).sum := by
  induction n with
  | zero => simp [planeData, State.plane]
  | succ n ih =>
    obtain ⟨ihl, iha, ihp, ihcnt⟩ := ih (by omega)
    simp only [forUpTo_succ]
    generalize forUpTo n _ _ = g at ihl iha ihp ihcnt ⊢
    have hpn := ihp n
    rw [if_neg (fun h => Nat.lt_irrefl n h.1)] at hpn
    by_cases hs : s.selected n = true
    · rw [if_pos hs]
      refine ⟨by simp [ihl], ?_, fun p => ?_, ?_⟩
      · simp only [iha, planeData, List.range_succ, List.countP_append, List.countP_singleton, hs, if_true]
        rw [Nat.mul_add, Nat.mul_one, Nat.add_assoc]
      · by_cases hpe : p = n
        · subst hpe
          rw [if_pos ⟨Nat.lt_succ_self p, hs⟩, hpn, iha]
          simp [List.getD, ihl, (by omega : p < s.planes.length)]
        · have : (g.planes.set n (drawPlane s g.address dx dy width height (g.planes.getD n 0)).plane).getD p 0 =
              g.planes.getD p 0 := by
            simp [List.getD, List.getElem?_set_ne (fun h : n = p => hpe h.symm)]
          rw [this, ihp]
          have hlt : p < n + 1 ↔ p < n := by omega
          simp only [hlt]
      · rw [List.range_succ, List.map_append, List.sum_append, ← ihcnt, hpn, iha]
        simp [hs]
    · rw [if_neg hs]
      refine ⟨ihl, ?_, fun p => ?_, ?_⟩
      · rw [iha]; simp [planeData, List.range_succ, hs]
      · rw [ihp]
        by_cases hpe : p = n
        · subst hpe; simp [hs]
        · have hlt : p < n + 1 ↔ p < n := by omega
          simp only [hlt]
      · rw [List.range_succ, List.map_append, List.sum_append, ← ihcnt]
        simp [hs]

end Sys2Proof.Machine
end

