-- ==== Sys2Proof/Laws/PerInstr.lean ====
section
/-! SUPPORT. Statements made per instruction. EncodesToRow: an operation's word is accepted by the row of
spec/opcode_table.json that carries its mnemonic and its layer, whatever its operands (30_encoding.md R124). -/

namespace Sys2Proof.Laws

/-! ### Masking a word of each format (30_encoding.md R116) -/

/-- A field under a mask of ones stays, under a mask of zeros it becomes 0. -/
theorem append_and_append {v w : Nat} (a c : BitVec v) (b d : BitVec w) : (a ++ b) &&& (c ++ d) = (a &&& c) ++ (b &&& d) :=
  BitVec.and_append

theorem and_ones4 (a : Nibble) : a &&& 0xF#4 = a := BitVec.and_allOnes
theorem and_ones8 (a : Byte) : a &&& 0xFF#8 = a := BitVec.and_allOnes
theorem and_ones12 (a : Addr12) : a &&& 0xFFF#12 = a := BitVec.and_allOnes

theorem encode_and_nnn (op : Nibble) (nnn : Addr12) : (op ++ nnn : Word) &&& 0xF000#16 = op ++ 0#12 := by
  have h : (op ++ nnn) &&& (0xF#4 ++ 0#12) = op ++ 0#12 := by
    rw [append_and_append, and_ones4, BitVec.and_zero]
  exact h

theorem encode_and_xnn (op x : Nibble) (nn : Byte) : (op ++ x ++ nn : Word) &&& 0xF000#16 = op ++ 0#4 ++ 0#8 := by
  have h : (op ++ x ++ nn) &&& (0xF#4 ++ 0#4 ++ 0#8) = op ++ 0#4 ++ 0#8 := by
    rw [append_and_append, append_and_append, and_ones4, BitVec.and_zero, BitVec.and_zero]
  exact h

theorem encode_and_xyn_major (op x y n : Nibble) :
    (op ++ x ++ y ++ n : Word) &&& 0xF000#16 = op ++ 0#4 ++ 0#4 ++ 0#4 := by
  have h : (op ++ x ++ y ++ n) &&& (0xF#4 ++ 0#4 ++ 0#4 ++ 0#4) = op ++ 0#4 ++ 0#4 ++ 0#4 := by
    rw [append_and_append, append_and_append, append_and_append, and_ones4]
    simp only [BitVec.and_zero]
  exact h

theorem encode_and_xyn (op x y n : Nibble) : (op ++ x ++ y ++ n : Word) &&& 0xF00F#16 = op ++ 0#4 ++ 0#4 ++ n := by
  have h : (op ++ x ++ y ++ n) &&& (0xF#4 ++ 0#4 ++ 0#4 ++ 0xF#4) = op ++ 0#4 ++ 0#4 ++ n := by
    rw [append_and_append, append_and_append, append_and_append, and_ones4, and_ones4]
    simp only [BitVec.and_zero]
  exact h

theorem encode_and_xfn (op x : Nibble) (nn : Byte) : (op ++ x ++ nn : Word) &&& 0xF0FF#16 = op ++ 0#4 ++ nn := by
  have h : (op ++ x ++ nn) &&& (0xF#4 ++ 0#4 ++ 0xFF#8) = op ++ 0#4 ++ nn := by
    rw [append_and_append, append_and_append, and_ones4, and_ones8, BitVec.and_zero]
  exact h

theorem encode_and_scroll (op : Addr12) (n : Nibble) : (op ++ n : Word) &&& 0xFFF0#16 = op ++ 0#4 := by
  have h : (op ++ n) &&& (0xFFF#12 ++ 0#4) = op ++ 0#4 := by
    rw [append_and_append, and_ones12, BitVec.and_zero]
  exact h

/-- The row of the operation's mnemonic accepts its word. -/
def EncodesToRow.Statement (i : Instr) : Prop :=
  ∃ r ∈ opcodeTable, r.mnemonic = i.mnemonic ∧ r.layer = i.layer ∧ r.accepts (encode i) = true

end Sys2Proof.Laws

open Sys2Proof

theorem Sys2Proof.Laws.EncodesToRow.cls : Sys2Proof.Laws.EncodesToRow.Statement (.cls) :=
  ⟨⟨"CLS", .base, 0xFFFF, 0x00E0⟩, by decide, rfl, rfl, rfl⟩

theorem Sys2Proof.Laws.EncodesToRow.ret : Sys2Proof.Laws.EncodesToRow.Statement (.ret) :=
  ⟨⟨"RET", .base, 0xFFFF, 0x00EE⟩, by decide, rfl, rfl, rfl⟩

theorem Sys2Proof.Laws.EncodesToRow.jp (nnn : Addr12) : Sys2Proof.Laws.EncodesToRow.Statement (.jp nnn) :=
  ⟨⟨"JP", .base, 0xF000, 0x1000⟩, by decide, rfl, rfl, by
    unfold OpcodeRow.accepts encode; erw [Sys2Proof.Laws.encode_and_nnn]; rfl⟩

theorem Sys2Proof.Laws.EncodesToRow.call (nnn : Addr12) : Sys2Proof.Laws.EncodesToRow.Statement (.call nnn) :=
  ⟨⟨"CALL", .base, 0xF000, 0x2000⟩, by decide, rfl, rfl, by
    unfold OpcodeRow.accepts encode; erw [Sys2Proof.Laws.encode_and_nnn]; rfl⟩

theorem Sys2Proof.Laws.EncodesToRow.seImm (x : Nibble) (nn : Byte) : Sys2Proof.Laws.EncodesToRow.Statement (.seImm x nn) :=
  ⟨⟨"SE_IMM", .base, 0xF000, 0x3000⟩, by decide, rfl, rfl, by
    unfold OpcodeRow.accepts encode; erw [Sys2Proof.Laws.encode_and_xnn]; rfl⟩

theorem Sys2Proof.Laws.EncodesToRow.sneImm (x : Nibble) (nn : Byte) : Sys2Proof.Laws.EncodesToRow.Statement (.sneImm x nn) :=
  ⟨⟨"SNE_IMM", .base, 0xF000, 0x4000⟩, by decide, rfl, rfl, by
    unfold OpcodeRow.accepts encode; erw [Sys2Proof.Laws.encode_and_xnn]; rfl⟩

theorem Sys2Proof.Laws.EncodesToRow.seReg (x : Nibble) (y : Nibble) : Sys2Proof.Laws.EncodesToRow.Statement (.seReg x y) :=
  ⟨⟨"SE_REG", .base, 0xF00F, 0x5000⟩, by decide, rfl, rfl, by
    unfold OpcodeRow.accepts encode; erw [Sys2Proof.Laws.encode_and_xyn]; rfl⟩

theorem Sys2Proof.Laws.EncodesToRow.ldImm (x : Nibble) (nn : Byte) : Sys2Proof.Laws.EncodesToRow.Statement (.ldImm x nn) :=
  ⟨⟨"LD_IMM", .base, 0xF000, 0x6000⟩, by decide, rfl, rfl, by
    unfold OpcodeRow.accepts encode; erw [Sys2Proof.Laws.encode_and_xnn]; rfl⟩

theorem Sys2Proof.Laws.EncodesToRow.addImm (x : Nibble) (nn : Byte) : Sys2Proof.Laws.EncodesToRow.Statement (.addImm x nn) :=
  ⟨⟨"ADD_IMM", .base, 0xF000, 0x7000⟩, by decide, rfl, rfl, by
    unfold OpcodeRow.accepts encode; erw [Sys2Proof.Laws.encode_and_xnn]; rfl⟩

theorem Sys2Proof.Laws.EncodesToRow.ldReg (x : Nibble) (y : Nibble) : Sys2Proof.Laws.EncodesToRow.Statement (.ldReg x y) :=
  ⟨⟨"LD_REG", .base, 0xF00F, 0x8000⟩, by decide, rfl, rfl, by
    unfold OpcodeRow.accepts encode; erw [Sys2Proof.Laws.encode_and_xyn]; rfl⟩

theorem Sys2Proof.Laws.EncodesToRow.or (x : Nibble) (y : Nibble) : Sys2Proof.Laws.EncodesToRow.Statement (.or x y) :=
  ⟨⟨"OR", .base, 0xF00F, 0x8001⟩, by decide, rfl, rfl, by
    unfold OpcodeRow.accepts encode; erw [Sys2Proof.Laws.encode_and_xyn]; rfl⟩

theorem Sys2Proof.Laws.EncodesToRow.and (x : Nibble) (y : Nibble) : Sys2Proof.Laws.EncodesToRow.Statement (.and x y) :=
  ⟨⟨"AND", .base, 0xF00F, 0x8002⟩, by decide, rfl, rfl, by
    unfold OpcodeRow.accepts encode; erw [Sys2Proof.Laws.encode_and_xyn]; rfl⟩

theorem Sys2Proof.Laws.EncodesToRow.xor (x : Nibble) (y : Nibble) : Sys2Proof.Laws.EncodesToRow.Statement (.xor x y) :=
  ⟨⟨"XOR", .base, 0xF00F, 0x8003⟩, by decide, rfl, rfl, by
    unfold OpcodeRow.accepts encode; erw [Sys2Proof.Laws.encode_and_xyn]; rfl⟩

theorem Sys2Proof.Laws.EncodesToRow.addReg (x : Nibble) (y : Nibble) : Sys2Proof.Laws.EncodesToRow.Statement (.addReg x y) :=
  ⟨⟨"ADD_REG", .base, 0xF00F, 0x8004⟩, by decide, rfl, rfl, by
    unfold OpcodeRow.accepts encode; erw [Sys2Proof.Laws.encode_and_xyn]; rfl⟩

theorem Sys2Proof.Laws.EncodesToRow.sub (x : Nibble) (y : Nibble) : Sys2Proof.Laws.EncodesToRow.Statement (.sub x y) :=
  ⟨⟨"SUB", .base, 0xF00F, 0x8005⟩, by decide, rfl, rfl, by
    unfold OpcodeRow.accepts encode; erw [Sys2Proof.Laws.encode_and_xyn]; rfl⟩

theorem Sys2Proof.Laws.EncodesToRow.shr (x : Nibble) (y : Nibble) : Sys2Proof.Laws.EncodesToRow.Statement (.shr x y) :=
  ⟨⟨"SHR", .base, 0xF00F, 0x8006⟩, by decide, rfl, rfl, by
    unfold OpcodeRow.accepts encode; erw [Sys2Proof.Laws.encode_and_xyn]; rfl⟩

theorem Sys2Proof.Laws.EncodesToRow.subn (x : Nibble) (y : Nibble) : Sys2Proof.Laws.EncodesToRow.Statement (.subn x y) :=
  ⟨⟨"SUBN", .base, 0xF00F, 0x8007⟩, by decide, rfl, rfl, by
    unfold OpcodeRow.accepts encode; erw [Sys2Proof.Laws.encode_and_xyn]; rfl⟩

theorem Sys2Proof.Laws.EncodesToRow.shl (x : Nibble) (y : Nibble) : Sys2Proof.Laws.EncodesToRow.Statement (.shl x y) :=
  ⟨⟨"SHL", .base, 0xF00F, 0x800E⟩, by decide, rfl, rfl, by
    unfold OpcodeRow.accepts encode; erw [Sys2Proof.Laws.encode_and_xyn]; rfl⟩

theorem Sys2Proof.Laws.EncodesToRow.sneReg (x : Nibble) (y : Nibble) : Sys2Proof.Laws.EncodesToRow.Statement (.sneReg x y) :=
  ⟨⟨"SNE_REG", .base, 0xF00F, 0x9000⟩, by decide, rfl, rfl, by
    unfold OpcodeRow.accepts encode; erw [Sys2Proof.Laws.encode_and_xyn]; rfl⟩

theorem Sys2Proof.Laws.EncodesToRow.ldI (nnn : Addr12) : Sys2Proof.Laws.EncodesToRow.Statement (.ldI nnn) :=
  ⟨⟨"LD_I", .base, 0xF000, 0xA000⟩, by decide, rfl, rfl, by
    unfold OpcodeRow.accepts encode; erw [Sys2Proof.Laws.encode_and_nnn]; rfl⟩

theorem Sys2Proof.Laws.EncodesToRow.jpV0 (nnn : Addr12) : Sys2Proof.Laws.EncodesToRow.Statement (.jpV0 nnn) :=
  ⟨⟨"JP_V0", .base, 0xF000, 0xB000⟩, by decide, rfl, rfl, by
    unfold OpcodeRow.accepts encode; erw [Sys2Proof.Laws.encode_and_nnn]; rfl⟩

theorem Sys2Proof.Laws.EncodesToRow.rnd (x : Nibble) (nn : Byte) : Sys2Proof.Laws.EncodesToRow.Statement (.rnd x nn) :=
  ⟨⟨"RND", .base, 0xF000, 0xC000⟩, by decide, rfl, rfl, by
    unfold OpcodeRow.accepts encode; erw [Sys2Proof.Laws.encode_and_xnn]; rfl⟩

theorem Sys2Proof.Laws.EncodesToRow.drw (x : Nibble) (y : Nibble) (n : Nibble) : Sys2Proof.Laws.EncodesToRow.Statement (.drw x y n) :=
  ⟨⟨"DRW", .base, 0xF000, 0xD000⟩, by decide, rfl, rfl, by
    unfold OpcodeRow.accepts encode; erw [Sys2Proof.Laws.encode_and_xyn_major]; rfl⟩

theorem Sys2Proof.Laws.EncodesToRow.skp (x : Nibble) : Sys2Proof.Laws.EncodesToRow.Statement (.skp x) :=
  ⟨⟨"SKP", .base, 0xF0FF, 0xE09E⟩, by decide, rfl, rfl, by
    unfold OpcodeRow.accepts encode; erw [Sys2Proof.Laws.encode_and_xfn]; rfl⟩

theorem Sys2Proof.Laws.EncodesToRow.sknp (x : Nibble) : Sys2Proof.Laws.EncodesToRow.Statement (.sknp x) :=
  ⟨⟨"SKNP", .base, 0xF0FF, 0xE0A1⟩, by decide, rfl, rfl, by
    unfold OpcodeRow.accepts encode; erw [Sys2Proof.Laws.encode_and_xfn]; rfl⟩

theorem Sys2Proof.Laws.EncodesToRow.ldVxDt (x : Nibble) : Sys2Proof.Laws.EncodesToRow.Statement (.ldVxDt x) :=
  ⟨⟨"LD_VX_DT", .base, 0xF0FF, 0xF007⟩, by decide, rfl, rfl, by
    unfold OpcodeRow.accepts encode; erw [Sys2Proof.Laws.encode_and_xfn]; rfl⟩

theorem Sys2Proof.Laws.EncodesToRow.ldVxK (x : Nibble) : Sys2Proof.Laws.EncodesToRow.Statement (.ldVxK x) :=
  ⟨⟨"LD_VX_K", .base, 0xF0FF, 0xF00A⟩, by decide, rfl, rfl, by
    unfold OpcodeRow.accepts encode; erw [Sys2Proof.Laws.encode_and_xfn]; rfl⟩

theorem Sys2Proof.Laws.EncodesToRow.ldDtVx (x : Nibble) : Sys2Proof.Laws.EncodesToRow.Statement (.ldDtVx x) :=
  ⟨⟨"LD_DT_VX", .base, 0xF0FF, 0xF015⟩, by decide, rfl, rfl, by
    unfold OpcodeRow.accepts encode; erw [Sys2Proof.Laws.encode_and_xfn]; rfl⟩

theorem Sys2Proof.Laws.EncodesToRow.ldStVx (x : Nibble) : Sys2Proof.Laws.EncodesToRow.Statement (.ldStVx x) :=
  ⟨⟨"LD_ST_VX", .base, 0xF0FF, 0xF018⟩, by decide, rfl, rfl, by
    unfold OpcodeRow.accepts encode; erw [Sys2Proof.Laws.encode_and_xfn]; rfl⟩

theorem Sys2Proof.Laws.EncodesToRow.addI (x : Nibble) : Sys2Proof.Laws.EncodesToRow.Statement (.addI x) :=
  ⟨⟨"ADD_I", .base, 0xF0FF, 0xF01E⟩, by decide, rfl, rfl, by
    unfold OpcodeRow.accepts encode; erw [Sys2Proof.Laws.encode_and_xfn]; rfl⟩

theorem Sys2Proof.Laws.EncodesToRow.ldF (x : Nibble) : Sys2Proof.Laws.EncodesToRow.Statement (.ldF x) :=
  ⟨⟨"LD_F", .base, 0xF0FF, 0xF029⟩, by decide, rfl, rfl, by
    unfold OpcodeRow.accepts encode; erw [Sys2Proof.Laws.encode_and_xfn]; rfl⟩

theorem Sys2Proof.Laws.EncodesToRow.ldB (x : Nibble) : Sys2Proof.Laws.EncodesToRow.Statement (.ldB x) :=
  ⟨⟨"LD_B", .base, 0xF0FF, 0xF033⟩, by decide, rfl, rfl, by
    unfold OpcodeRow.accepts encode; erw [Sys2Proof.Laws.encode_and_xfn]; rfl⟩

theorem Sys2Proof.Laws.EncodesToRow.ldMemVx (x : Nibble) : Sys2Proof.Laws.EncodesToRow.Statement (.ldMemVx x) :=
  ⟨⟨"LD_MEM_VX", .base, 0xF0FF, 0xF055⟩, by decide, rfl, rfl, by
    unfold OpcodeRow.accepts encode; erw [Sys2Proof.Laws.encode_and_xfn]; rfl⟩

theorem Sys2Proof.Laws.EncodesToRow.ldVxMem (x : Nibble) : Sys2Proof.Laws.EncodesToRow.Statement (.ldVxMem x) :=
  ⟨⟨"LD_VX_MEM", .base, 0xF0FF, 0xF065⟩, by decide, rfl, rfl, by
    unfold OpcodeRow.accepts encode; erw [Sys2Proof.Laws.encode_and_xfn]; rfl⟩

theorem Sys2Proof.Laws.EncodesToRow.scdown (n : Nibble) : Sys2Proof.Laws.EncodesToRow.Statement (.scdown n) :=
  ⟨⟨"SCDOWN", .schip, 0xFFF0, 0x00C0⟩, by decide, rfl, rfl, by
    unfold OpcodeRow.accepts encode; erw [Sys2Proof.Laws.encode_and_scroll]; rfl⟩

theorem Sys2Proof.Laws.EncodesToRow.scright : Sys2Proof.Laws.EncodesToRow.Statement (.scright) :=
  ⟨⟨"SCRIGHT", .schip, 0xFFFF, 0x00FB⟩, by decide, rfl, rfl, rfl⟩

theorem Sys2Proof.Laws.EncodesToRow.scleft : Sys2Proof.Laws.EncodesToRow.Statement (.scleft) :=
  ⟨⟨"SCLEFT", .schip, 0xFFFF, 0x00FC⟩, by decide, rfl, rfl, rfl⟩

theorem Sys2Proof.Laws.EncodesToRow.exit : Sys2Proof.Laws.EncodesToRow.Statement (.exit) :=
  ⟨⟨"EXIT", .schip, 0xFFFF, 0x00FD⟩, by decide, rfl, rfl, rfl⟩

theorem Sys2Proof.Laws.EncodesToRow.low : Sys2Proof.Laws.EncodesToRow.Statement (.low) :=
  ⟨⟨"LOW", .schip, 0xFFFF, 0x00FE⟩, by decide, rfl, rfl, rfl⟩

theorem Sys2Proof.Laws.EncodesToRow.high : Sys2Proof.Laws.EncodesToRow.Statement (.high) :=
  ⟨⟨"HIGH", .schip, 0xFFFF, 0x00FF⟩, by decide, rfl, rfl, rfl⟩

theorem Sys2Proof.Laws.EncodesToRow.drw16 (x : Nibble) (y : Nibble) : Sys2Proof.Laws.EncodesToRow.Statement (.drw16 x y) :=
  ⟨⟨"DRW16", .schip, 0xF00F, 0xD000⟩, by decide, rfl, rfl, by
    unfold OpcodeRow.accepts encode; erw [Sys2Proof.Laws.encode_and_xyn]; rfl⟩

theorem Sys2Proof.Laws.EncodesToRow.ldHf (x : Nibble) : Sys2Proof.Laws.EncodesToRow.Statement (.ldHf x) :=
  ⟨⟨"LD_HF", .schip, 0xF0FF, 0xF030⟩, by decide, rfl, rfl, by
    unfold OpcodeRow.accepts encode; erw [Sys2Proof.Laws.encode_and_xfn]; rfl⟩

theorem Sys2Proof.Laws.EncodesToRow.ldRVx (x : Nibble) : Sys2Proof.Laws.EncodesToRow.Statement (.ldRVx x) :=
  ⟨⟨"LD_R_VX", .schip, 0xF0FF, 0xF075⟩, by decide, rfl, rfl, by
    unfold OpcodeRow.accepts encode; erw [Sys2Proof.Laws.encode_and_xfn]; rfl⟩

theorem Sys2Proof.Laws.EncodesToRow.ldVxR (x : Nibble) : Sys2Proof.Laws.EncodesToRow.Statement (.ldVxR x) :=
  ⟨⟨"LD_VX_R", .schip, 0xF0FF, 0xF085⟩, by decide, rfl, rfl, by
    unfold OpcodeRow.accepts encode; erw [Sys2Proof.Laws.encode_and_xfn]; rfl⟩

theorem Sys2Proof.Laws.EncodesToRow.scup (n : Nibble) : Sys2Proof.Laws.EncodesToRow.Statement (.scup n) :=
  ⟨⟨"SCUP", .xo, 0xFFF0, 0x00D0⟩, by decide, rfl, rfl, by
    unfold OpcodeRow.accepts encode; erw [Sys2Proof.Laws.encode_and_scroll]; rfl⟩

theorem Sys2Proof.Laws.EncodesToRow.save (x : Nibble) (y : Nibble) : Sys2Proof.Laws.EncodesToRow.Statement (.save x y) :=
  ⟨⟨"SAVE", .xo, 0xF00F, 0x5002⟩, by decide, rfl, rfl, by
    unfold OpcodeRow.accepts encode; erw [Sys2Proof.Laws.encode_and_xyn]; rfl⟩

theorem Sys2Proof.Laws.EncodesToRow.load (x : Nibble) (y : Nibble) : Sys2Proof.Laws.EncodesToRow.Statement (.load x y) :=
  ⟨⟨"LOAD", .xo, 0xF00F, 0x5003⟩, by decide, rfl, rfl, by
    unfold OpcodeRow.accepts encode; erw [Sys2Proof.Laws.encode_and_xyn]; rfl⟩

theorem Sys2Proof.Laws.EncodesToRow.ldILong : Sys2Proof.Laws.EncodesToRow.Statement (.ldILong) :=
  ⟨⟨"LD_I_LONG", .xo, 0xFFFF, 0xF000⟩, by decide, rfl, rfl, rfl⟩

theorem Sys2Proof.Laws.EncodesToRow.plane (n : Nibble) : Sys2Proof.Laws.EncodesToRow.Statement (.plane n) :=
  ⟨⟨"PLANE", .xo, 0xF0FF, 0xF001⟩, by decide, rfl, rfl, by
    unfold OpcodeRow.accepts encode; erw [Sys2Proof.Laws.encode_and_xfn]; rfl⟩

theorem Sys2Proof.Laws.EncodesToRow.audio : Sys2Proof.Laws.EncodesToRow.Statement (.audio) :=
  ⟨⟨"AUDIO", .xo, 0xFFFF, 0xF002⟩, by decide, rfl, rfl, rfl⟩
end

