-- ==== Sys2Proof/Laws/Scroll.lean ====
section
/-! SUPPORT. What the line primitives and scrolls leave at each row and column of one plane (44_display_engine.md R411 to R418). -/

namespace Sys2Proof.Machine

/-- The cell of column `X`, row `Y` lies in row `r` exactly if `Y = r`. -/
theorem row_range {w X Y r : Nat} (hX : X < w) : (r * w ≤ Y * w + X ∧ Y * w + X < r * w + w) ↔ Y = r := by
  constructor
  · rintro ⟨h1, h2⟩
    rcases Nat.lt_trichotomy Y r with h | h | h
    · have := Nat.mul_le_mul_right w (Nat.succ_le_of_lt h)
      rw [Nat.succ_mul] at this
      omega
    · exact h
    · have := Nat.mul_le_mul_right w (Nat.succ_le_of_lt h)
      rw [Nat.succ_mul] at this
      omega
  · rintro rfl; omega

theorem row_mul_le {w h r : Nat} (hsz : h * w ≤ 8192) (hr : r < h) : (r + 1) * w ≤ 8192 :=
  Nat.le_trans (Nat.mul_le_mul_right w hr) hsz

/-- `CopyRow` at a pixel (R411). -/
theorem Plane.pixel_copyRow {w h src dst X Y : Nat} (pl : Plane) (hsz : h * w ≤ 8192) (hd : dst < h) (hs : src < h) (hX : X < w) :
    Plane.cell (Plane.copyRow w src dst pl) (Y * w + X) =
      if Y = dst then Plane.cell pl (src * w + X) else Plane.cell pl (Y * w + X) := by
  rw [Plane.cell_copyRow _ _ _ _ _ (row_mul_le hsz hd) (row_mul_le hsz hs)]
  simp only [row_range hX]
  by_cases hY : Y = dst
  · subst hY; simp
  · simp [hY]

/-- `ClearRow` at a pixel (R413). -/
theorem Plane.pixel_clearRow {w r X Y : Nat} (pl : Plane) (hX : X < w) :
    Plane.cell (Plane.clearRow w r pl) (Y * w + X) = if Y = r then false else Plane.cell pl (Y * w + X) := by
  rw [Plane.cell_clearRow]; simp only [row_range hX]

theorem column_mod {w X Y : Nat} (hX : X < w) : (Y * w + X) % w = X := by
  rw [Nat.mul_comm, Nat.mul_add_mod, Nat.mod_eq_of_lt hX]

theorem column_div {w X Y : Nat} (hX : X < w) : (Y * w + X) / w = Y := by
  rw [Nat.mul_comm, Nat.mul_add_div (by omega), Nat.div_eq_of_lt hX, Nat.add_zero]

theorem pixel_lt {w h X Y : Nat} (hX : X < w) (hY : Y < h) : Y * w + X < h * w := by
  have := Nat.mul_le_mul_right w (Nat.succ_le_of_lt hY)
  rw [Nat.succ_mul] at this
  omega

/-- `CopyColumn` at a pixel (R412). -/
theorem Plane.pixel_copyColumn {w h src dst X Y : Nat} (pl : Plane) (hsz : h * w ≤ 8192) (hd : dst < w) (hs : src < w)
    (hX : X < w) (hY : Y < h) :
    Plane.cell (Plane.copyColumn w h src dst pl) (Y * w + X) =
      if X = dst then Plane.cell pl (Y * w + src) else Plane.cell pl (Y * w + X) := by
  rw [Plane.cell_copyColumn _ _ _ _ _ _ hsz hd hs, column_mod hX, column_div hX]
  simp only [pixel_lt hX hY, and_true]

/-- `ClearColumn` at a pixel (R414). -/
theorem Plane.pixel_clearColumn {w h c X Y : Nat} (pl : Plane) (hc : c < w) (hX : X < w) (hY : Y < h) :
    Plane.cell (Plane.clearColumn w h c pl) (Y * w + X) = if X = c then false else Plane.cell pl (Y * w + X) := by
  rw [Plane.cell_clearColumn _ _ _ _ _ hc, column_mod hX]
  simp only [pixel_lt hX hY, and_true]

/-- Rows cleared one after another. -/
theorem Plane.pixel_clearRows {w X Y : Nat} (n b : Nat) (pl : Plane) (hX : X < w) :
    Plane.cell (forUpTo n (fun j => Plane.clearRow w (b + j)) pl) (Y * w + X) =
      if b ≤ Y ∧ Y < b + n then false else Plane.cell pl (Y * w + X) := by
  induction n with
  | zero => rw [forUpTo_zero, if_neg (by omega)]
  | succ n ih =>
    rw [forUpTo_succ, Plane.pixel_clearRow _ hX, ih]
    by_cases h : Y = b + n
    · rw [if_pos h, if_pos (by omega)]
    · rw [if_neg h]
      have : (b ≤ Y ∧ Y < b + n) ↔ (b ≤ Y ∧ Y < b + (n + 1)) := by omega
      simp only [this]

/-- Columns cleared one after another. -/
theorem Plane.pixel_clearColumns {w h X Y : Nat} (n b : Nat) (pl : Plane) (hb : b + n ≤ w) (hX : X < w) (hY : Y < h) :
    Plane.cell (forUpTo n (fun j => Plane.clearColumn w h (b + j)) pl) (Y * w + X) =
      if b ≤ X ∧ X < b + n then false else Plane.cell pl (Y * w + X) := by
  induction n with
  | zero => rw [forUpTo_zero, if_neg (by omega)]
  | succ n ih =>
    rw [forUpTo_succ, Plane.pixel_clearColumn _ (by omega) hX hY, ih (by omega)]
    by_cases h : X = b + n
    · rw [if_pos h, if_pos (by omega)]
    · rw [if_neg h]
      have : (b ≤ X ∧ X < b + n) ↔ (b ≤ X ∧ X < b + (n + 1)) := by omega
      simp only [this]

/-- `ScrollDown(n)` at a pixel (R415). -/
theorem Plane.pixel_scrollDown {w h n X Y : Nat} (pl : Plane) (hsz : h * w ≤ 8192) (hn : n ≤ h) (hX : X < w) (hY : Y < h) :
    Plane.cell (Plane.scrollDown w h n pl) (Y * w + X) = if n ≤ Y then Plane.cell pl ((Y - n) * w + X) else false := by
  have copies : ∀ m, m ≤ h - n → ∀ Y, Y < h →
      Plane.cell (forUpTo m (fun j => Plane.copyRow w (h - n - 1 - j) (h - n - 1 - j + n)) pl) (Y * w + X) =
        if h - m ≤ Y then Plane.cell pl ((Y - n) * w + X) else Plane.cell pl (Y * w + X) := by
    intro m
    induction m with
    | zero => intro _ Y hY; rw [forUpTo_zero, if_neg (by omega)]
    | succ m ih =>
      intro hm Y hY
      rw [forUpTo_succ, Plane.pixel_copyRow _ hsz (by omega) (by omega) hX, ih (by omega) Y hY, ih (by omega) _ (by omega)]
      by_cases h1 : Y = h - n - 1 - m + n
      · rw [if_pos h1, if_neg (by omega), if_pos (by omega)]
        rw [show Y - n = h - n - 1 - m by omega]
      · rw [if_neg h1]
        have : h - m ≤ Y ↔ h - (m + 1) ≤ Y := by omega
        simp only [this]
  unfold Plane.scrollDown
  have hc := Plane.pixel_clearRows (Y := Y) n 0
    (forUpTo (h - n) (fun j => Plane.copyRow w (h - n - 1 - j) (h - n - 1 - j + n)) pl) hX
  simp only [Nat.zero_add] at hc
  rw [hc, copies _ (Nat.le_refl _) Y hY]
  by_cases h1 : n ≤ Y
  · rw [if_neg (by omega), if_pos (by omega), if_pos h1]
  · rw [if_pos (by omega), if_neg h1]

/-- `ScrollUp(n)` at a pixel (R416). -/
theorem Plane.pixel_scrollUp {w h n X Y : Nat} (pl : Plane) (hsz : h * w ≤ 8192) (hn : n ≤ h) (hX : X < w) (hY : Y < h) :
    Plane.cell (Plane.scrollUp w h n pl) (Y * w + X) = if Y + n < h then Plane.cell pl ((Y + n) * w + X) else false := by
  have copies : ∀ m, m ≤ h - n → ∀ Y, Y < h →
      Plane.cell (forUpTo m (fun row => Plane.copyRow w (row + n) row) pl) (Y * w + X) =
        if Y < m then Plane.cell pl ((Y + n) * w + X) else Plane.cell pl (Y * w + X) := by
    intro m
    induction m with
    | zero => intro _ Y hY; rw [forUpTo_zero, if_neg (by omega)]
    | succ m ih =>
      intro hm Y hY
      rw [forUpTo_succ, Plane.pixel_copyRow _ hsz (by omega) (by omega) hX, ih (by omega) Y hY, ih (by omega) _ (by omega)]
      by_cases h1 : Y = m
      · rw [if_pos h1, if_neg (by omega), if_pos (by omega), h1]
      · rw [if_neg h1]
        have : Y < m ↔ Y < m + 1 := by omega
        simp only [this]
  unfold Plane.scrollUp
  rw [Plane.pixel_clearRows _ _ _ hX, copies _ (Nat.le_refl _) Y hY]
  by_cases h1 : Y + n < h
  · rw [if_neg (by omega), if_pos (by omega), if_pos h1]
  · rw [if_pos (by omega), if_neg h1]

/-- `ScrollRight4()` at a pixel (R417). -/
theorem Plane.pixel_scrollRight4 {w h X Y : Nat} (pl : Plane) (hsz : h * w ≤ 8192) (hw : 4 ≤ w) (hX : X < w) (hY : Y < h) :
    Plane.cell (Plane.scrollRight4 w h pl) (Y * w + X) = if 4 ≤ X then Plane.cell pl (Y * w + (X - 4)) else false := by
  have copies : ∀ m, m ≤ w - 4 → ∀ X, X < w →
      Plane.cell (forUpTo m (fun j => Plane.copyColumn w h (w - 1 - j - 4) (w - 1 - j)) pl) (Y * w + X) =
        if w - m ≤ X then Plane.cell pl (Y * w + (X - 4)) else Plane.cell pl (Y * w + X) := by
    intro m
    induction m with
    | zero => intro _ X hX; rw [forUpTo_zero, if_neg (by omega)]
    | succ m ih =>
      intro hm X hX
      rw [forUpTo_succ, Plane.pixel_copyColumn _ hsz (by omega) (by omega) hX hY, ih (by omega) X hX,
        ih (by omega) _ (by omega)]
      by_cases h1 : X = w - 1 - m
      · rw [if_pos h1, if_neg (by omega), if_pos (by omega), ← h1]
      · rw [if_neg h1]
        have : w - m ≤ X ↔ w - (m + 1) ≤ X := by omega
        simp only [this]
  unfold Plane.scrollRight4
  have hc := Plane.pixel_clearColumns (X := X) (Y := Y) (h := h) 4 0
    (forUpTo (w - 4) (fun j => Plane.copyColumn w h (w - 1 - j - 4) (w - 1 - j)) pl) (by omega) hX hY
  simp only [Nat.zero_add] at hc
  rw [hc, copies _ (Nat.le_refl _) X hX]
  by_cases h1 : 4 ≤ X
  · rw [if_neg (by omega), if_pos (by omega), if_pos h1]
  · rw [if_pos (by omega), if_neg h1]

/-- `ScrollLeft4()` at a pixel (R418). -/
theorem Plane.pixel_scrollLeft4 {w h X Y : Nat} (pl : Plane) (hsz : h * w ≤ 8192) (hw : 4 ≤ w) (hX : X < w) (hY : Y < h) :
    Plane.cell (Plane.scrollLeft4 w h pl) (Y * w + X) = if X + 4 < w then Plane.cell pl (Y * w + (X + 4)) else false := by
  have copies : ∀ m, m ≤ w - 4 → ∀ X, X < w →
      Plane.cell (forUpTo m (fun col => Plane.copyColumn w h (col + 4) col) pl) (Y * w + X) =
        if X < m then Plane.cell pl (Y * w + (X + 4)) else Plane.cell pl (Y * w + X) := by
    intro m
    induction m with
    | zero => intro _ X hX; rw [forUpTo_zero, if_neg (by omega)]
    | succ m ih =>
      intro hm X hX
      rw [forUpTo_succ, Plane.pixel_copyColumn _ hsz (by omega) (by omega) hX hY, ih (by omega) X hX,
        ih (by omega) _ (by omega)]
      by_cases h1 : X = m
      · rw [if_pos h1, if_neg (by omega), if_pos (by omega), h1]
      · rw [if_neg h1]
        have : X < m ↔ X < m + 1 := by omega
        simp only [this]
  unfold Plane.scrollLeft4
  rw [Plane.pixel_clearColumns _ _ _ (by omega) hX hY, copies _ (Nat.le_refl _) X hX]
  by_cases h1 : X + 4 < w
  · rw [if_neg (by omega), if_pos (by omega), if_pos h1]
  · rw [if_pos (by omega), if_neg h1]

end Sys2Proof.Machine
end

