-- ==== Sys2Proof/Laws/Step.lean ====
section
/-! SUPPORT. What one step can do, said once; and what the step's parts leave. -/

namespace Sys2Proof.Machine

/-- The four cases of a step (30_encoding.md R110). -/
theorem step_cases (s : State) :
    (s.waitingForKey = true ∧ step s = .next (resolveKeyWait s)) ∨
      (s.waitingForKey = false ∧ s.fetchMisaligned = true ∧ step s = .fault (.misalignedInstructionFetch s.pc)) ∨
      (∃ i, s.waitingForKey = false ∧ s.fetchMisaligned = false ∧ decode s.config.variant s.fetchWord = .ok i ∧
        step s = exec i s.advancePc) ∨
      (∃ e, s.waitingForKey = false ∧ s.fetchMisaligned = false ∧ decode s.config.variant s.fetchWord = .error e ∧
        step s = .fault (decodeFault e s.fetchWord s.pc)) := by
  unfold step
  cases hw : s.waitingForKey
  · cases hm : s.fetchMisaligned
    · cases hd : decode s.config.variant s.fetchWord with
      | ok i => exact .inr (.inr (.inl ⟨i, rfl, rfl, rfl, rfl⟩))
      | error e => exact .inr (.inr (.inr ⟨e, rfl, rfl, rfl, rfl⟩))
    · exact .inr (.inl ⟨rfl, rfl, rfl⟩)
  · exact .inl ⟨rfl, rfl⟩

/-- A resolved or unresolved key-wait touches the register file, the wait and the draws only (43_timer_key_ops.md R356). -/
theorem resolveKeyWait_eq (s : State) :
    resolveKeyWait s =
      { s with V := (resolveKeyWait s).V, waitingForKey := (resolveKeyWait s).waitingForKey,
               inputs := (resolveKeyWait s).inputs } := by
  unfold resolveKeyWait; split <;> rfl

/-- A timer tick touches the timers and the event output only (R357). -/
theorem updateTimers_eq (s : State) :
    updateTimers s =
      { s with DT := (updateTimers s).DT, ST := (updateTimers s).ST, events := (updateTimers s).events } := by
  unfold updateTimers State.emitIf; split <;> rfl

/-- The draw touches the planes only before `VF` is written (44_display_engine.md R402). -/
theorem drawSprite_eq (x y : Nibble) (width height : Nat) (s : State) :
    drawSprite x y width height s =
      { s with planes := (drawSprite x y width height s).planes, V := (drawSprite x y width height s).V } := rfl

/-- A resolution switch touches the planes, the resolution and the event output only (R419, R420). -/
theorem setResolution_eq (s : State) (hi : Bool) :
    s.setResolution hi =
      { s with planes := (s.setResolution hi).planes, highResolution := hi,
               events := s.events ++ [resolutionEvent hi] } := rfl

/-! `initialiseCall` keeps the configuration, the events and the draws (70_reset_and_hazards.md R550, R551; log 8). -/

@[simp] theorem initialiseCall_config (s : State) : (initialiseCall s).config = s.config := rfl
@[simp] theorem initialiseCall_events (s : State) : (initialiseCall s).events = s.events := rfl
@[simp] theorem initialiseCall_inputs (s : State) : (initialiseCall s).inputs = s.inputs := rfl

/-- All that a load does: the payload fits, and its bytes are stored from `LOAD_ADDRESS` on, one after another (R555). -/
theorem loadRom_cases {rom : List Byte} {s t : State} (h : loadRom rom s = some t) :
    loadAddress + (romPayload rom).length ≤ memorySize s.config ∧
      t = forUpTo (romPayload rom).length
        (fun k u => State.writeByte u (loadAddress + k) ((romPayload rom).getD k 0)) s := by
  unfold loadRom at h
  split at h
  · exact ⟨‹_›, (Option.some.inj h).symm⟩
  · cases h

/-- A load touches memory only (R555). -/
theorem loadRom_eq {rom : List Byte} {s t : State} (h : loadRom rom s = some t) : t = { s with memory := t.memory } := by
  obtain ⟨_, rfl⟩ := loadRom_cases h
  exact forUpTo_writeByte_memory ..

/-- A load keeps the canonical form of memory (log 14). -/
theorem loadRom_wf {rom : List Byte} {s t : State} (h : loadRom rom s = some t) (hm : s.memoryWf) : t.memoryWf := by
  obtain ⟨_, rfl⟩ := loadRom_cases h
  exact forUpTo_induction (fun _ u => u.memoryWf) _ _ s hm (fun _ _ _ hu => State.writeByte_wf _ _ hu)

end Sys2Proof.Machine
end

