-- ==== Sys2Proof/Tests/Slice0.lean ====
section
/-! SUPPORT. The model's own tests: the refused ill-formed terms, every operation's word written out from 30_encoding.md, single
steps with the results of spec/95_test_vectors.md (the vector's number stands in the test's name), and a state and operands that
meet the hypotheses of each statement that has some. -/

namespace Sys2Proof.Tests

open Sys2Proof.Machine Sys2Proof.Claims

/-! ### Ill-formed terms the check refuses (30_encoding.md R120, R122, R123) -/

theorem smoke_schip_operation_in_chip8 :
    [Instr.scdown 1, .scright, .scleft, .exit, .low, .high, .drw16 1 2, .ldHf 3, .ldRVx 1, .ldVxR 1].all
      (fun i => !i.wellFormed .chip8) = true := by decide

theorem smoke_xo_operation_in_lower_variants :
    [Instr.scup 1, .save 1 2, .load 1 2, .ldILong, .plane 3, .audio].all
      (fun i => !i.wellFormed .chip8 && !i.wellFormed .schip) = true := by decide

theorem smoke_drw_zero_is_shadowed :
    (Instr.drw 1 2 0).wellFormed .schip = false ∧ (Instr.drw 1 2 0).wellFormed .xochip = false ∧
      (Instr.drw 1 2 0).wellFormed .chip8 = true ∧ (Instr.drw 1 2 1).wellFormed .xochip = true := by decide

/-! ### Every constructor's word, written out from the encodings of 30_encoding.md R121 to R123 -/

theorem test_decode_control_flow :
    decode .chip8 0x00EE = .ok .ret ∧ decode .chip8 0x1234 = .ok (.jp 0x234) ∧ decode .chip8 0x2ABC = .ok (.call 0xABC) ∧
      decode .chip8 0x3A42 = .ok (.seImm 0xA 0x42) ∧ decode .chip8 0x4B7F = .ok (.sneImm 0xB 0x7F) ∧
      decode .chip8 0x5CD0 = .ok (.seReg 0xC 0xD) ∧ decode .chip8 0x9EF0 = .ok (.sneReg 0xE 0xF) ∧
      decode .chip8 0xBFED = .ok (.jpV0 0xFED) ∧ decode .schip 0x00FD = .ok .exit := by decide

theorem test_decode_register_operations :
    decode .chip8 0x61F0 = .ok (.ldImm 1 0xF0) ∧ decode .chip8 0x72E1 = .ok (.addImm 2 0xE1) ∧
      decode .chip8 0x8340 = .ok (.ldReg 3 4) ∧ decode .chip8 0x8561 = .ok (.or 5 6) ∧ decode .chip8 0x8782 = .ok (.and 7 8) ∧
      decode .chip8 0x89A3 = .ok (.xor 9 0xA) ∧ decode .chip8 0x8BC4 = .ok (.addReg 0xB 0xC) ∧
      decode .chip8 0x8DE5 = .ok (.sub 0xD 0xE) ∧ decode .chip8 0x8F06 = .ok (.shr 0xF 0) ∧
      decode .chip8 0x8127 = .ok (.subn 1 2) ∧ decode .chip8 0x834E = .ok (.shl 3 4) ∧
      decode .chip8 0xC5A6 = .ok (.rnd 5 0xA6) := by decide

theorem test_decode_index_and_memory :
    decode .chip8 0xA9BC = .ok (.ldI 0x9BC) ∧ decode .chip8 0xF11E = .ok (.addI 1) ∧ decode .chip8 0xF229 = .ok (.ldF 2) ∧
      decode .chip8 0xF333 = .ok (.ldB 3) ∧ decode .chip8 0xF455 = .ok (.ldMemVx 4) ∧ decode .chip8 0xF565 = .ok (.ldVxMem 5) ∧
      decode .schip 0xF630 = .ok (.ldHf 6) ∧ decode .schip 0xF775 = .ok (.ldRVx 7) ∧ decode .schip 0xF885 = .ok (.ldVxR 8) ∧
      decode .xochip 0x59A2 = .ok (.save 9 0xA) ∧ decode .xochip 0x5BC3 = .ok (.load 0xB 0xC) ∧
      decode .xochip 0xF000 = .ok .ldILong ∧ decode .xochip 0xF002 = .ok .audio := by decide

theorem test_decode_timer_and_key :
    decode .chip8 0xE19E = .ok (.skp 1) ∧ decode .chip8 0xE2A1 = .ok (.sknp 2) ∧ decode .chip8 0xF307 = .ok (.ldVxDt 3) ∧
      decode .chip8 0xF40A = .ok (.ldVxK 4) ∧ decode .chip8 0xF515 = .ok (.ldDtVx 5) ∧ decode .chip8 0xF618 = .ok (.ldStVx 6) := by
  decide

theorem test_decode_display :
    decode .chip8 0x00E0 = .ok .cls ∧ decode .chip8 0xD123 = .ok (.drw 1 2 3) ∧ decode .schip 0xD450 = .ok (.drw16 4 5) ∧
      decode .schip 0x00C6 = .ok (.scdown 6) ∧ decode .xochip 0x00D7 = .ok (.scup 7) ∧ decode .schip 0x00FB = .ok .scright ∧
      decode .schip 0x00FC = .ok .scleft ∧ decode .schip 0x00FE = .ok .low ∧ decode .schip 0x00FF = .ok .high ∧
      decode .xochip 0xFA01 = .ok (.plane 0xA) := by decide

/-- Vectors E3 to E11. -/
theorem test_decode_rejections :
    decode .chip8 0x00D3 = .error .variantViolation ∧ decode .schip 0x00D3 = .error .variantViolation ∧
      decode .xochip 0x00D3 = .ok (.scup 3) ∧ decode .xochip 0x5121 = .error .illegalInstruction ∧
      decode .schip 0x5122 = .error .variantViolation ∧ decode .xochip 0x8008 = .error .illegalInstruction ∧
      decode .xochip 0xE000 = .error .illegalInstruction ∧ decode .xochip 0xF0FF = .error .illegalInstruction ∧
      decode .xochip 0x9121 = .error .illegalInstruction ∧ decode .xochip 0x0000 = .error .illegalInstruction ∧
      decode .xochip 0x0123 = .error .illegalInstruction ∧ decode .xochip 0xF100 = .error .illegalInstruction ∧
      decode .chip8 0xF000 = .error .variantViolation ∧ decode .chip8 0xF301 = .error .variantViolation ∧
      decode .xochip 0xF03A = .error .illegalInstruction ∧ decode .chip8 0x00C1 = .error .variantViolation := by decide

/-! ### Single steps -/

/-- The vectors' configuration (95_test_vectors.md, header), with fonts that a test can evaluate. -/
def testConfig (v : Variant) : Config :=
  { resetConfig with variant := v, jumpQuirk := .v0, highFont := List.replicate 160 0, cyclesPerFrame := 0 }

/-- After `Initialise()`. -/
def boot (v : Variant) : State := State.initialise (testConfig v)

/-- Some registers set. -/
def withV (l : List (Nibble × Byte)) (s : State) : State := l.foldl (fun t p => t.setReg p.1 p.2) s

/-- Some bytes stored from an address on. -/
def withBytes (a : Nat) (l : List Byte) (s : State) : State := forUpTo l.length (fun k t => t.writeByte (a + k) (l.getD k 0)) s

/-- `FLAG_WRITE_ORDER = FlagLast`. -/
def flagLast (s : State) : State := { s with config := { s.config with flagWriteOrder := .flagLast } }

/-- `ADDRESS_WRAP = Clamp`. -/
def clamped (s : State) : State := { s with config := { s.config with addressWrap := .clamp } }

/-- `ALLOW_MISALIGNED = true`. -/
def anyPc (s : State) : State := { s with config := { s.config with allowMisaligned := true } }

/-- The step over a word placed at `pc`, and a question about its next state. -/
def ran (w : Nat) (s : State) (q : State → Bool) : Bool :=
  match step (s.withFetchWord 16 w) with
  | .next t => q t
  | _ => false

/-- The fault a step ends in. -/
def faulted (s : State) : Option Fault :=
  match step s with
  | .fault r => some r
  | _ => none

/-- One cell of a plane lit, `w` cells a row. -/
def dot (w X Y : Nat) : Plane := 1#8192 <<< (Y * w + X)

theorem test_fetch_faults_E1_E14_E19_I6 :
    faulted ((boot .chip8).withFetchWord 16 0x00FF) = some (.variantViolation 0x00FF 0x200) ∧
      faulted { boot .chip8 with pc := 0x201 } = some (.misalignedInstructionFetch 0x201) ∧
      faulted ((boot .schip).withFetchWord 16 0xF875) = some (.flagRegisterIndex 0xF875 0x200) ∧
      faulted (boot .xochip) = some (.illegalInstruction 0x0000 0x200) := by decide

theorem test_odd_fetch_E15_wrapped_fetch_E16 :
    ran 0x6005 { anyPc (boot .chip8) with pc := 0x201 } (fun t => t.reg 0 == 5 && t.pc == 0x203) = true ∧
      ran 0x1234 { anyPc (boot .chip8) with pc := 0xFFF } (fun t => t.pc == 0x234) = true := by decide

theorem test_jp_C1_call_C3 :
    ran 0x1234 (boot .chip8) (fun t => t.pc == 0x234) = true ∧
      ran 0x2300 (boot .chip8) (fun t => t.stackEntry 0 == 0x202 && t.sp == 1 && t.pc == 0x300) = true := by decide

theorem test_ret_C4_C5 :
    ran 0x00EE { (boot .chip8).setStackEntry 0 0x202 with sp := 1, pc := 0x300 } (fun t => t.sp == 0 && t.pc == 0x202) = true ∧
      ran 0x00EE (boot .chip8) (fun t => t.sp == 15 && t.pc == 0) = true := by decide

theorem test_skips_C7_C8 :
    ran 0x3242 (withV [(2, 0x42)] (boot .chip8)) (fun t => t.pc == 0x204) = true ∧
      ran 0x3241 (withV [(2, 0x42)] (boot .chip8)) (fun t => t.pc == 0x202) = true ∧
      ran 0x4242 (withV [(2, 0x42)] (boot .chip8)) (fun t => t.pc == 0x202) = true ∧
      ran 0x4241 (withV [(2, 0x42)] (boot .chip8)) (fun t => t.pc == 0x204) = true := by decide

theorem test_register_skips_C9_C10 :
    ran 0x5120 (withV [(1, 7), (2, 7)] (boot .chip8)) (fun t => t.pc == 0x204) = true ∧
      ran 0x9330 (boot .chip8) (fun t => t.pc == 0x202) = true := by decide

theorem test_jp_v0_C12_C13_C14 :
    ran 0xBFFF (withV [(0, 0xFF)] (boot .chip8)) (fun t => t.pc == 0x10FE) = true ∧
      ran 0xB300 (withV [(0, 0x10), (3, 5)]
        { boot .schip with config := { testConfig .schip with jumpQuirk := .vx } }) (fun t => t.pc == 0x305) = true ∧
      ran 0xB300 (withV [(0, 0x10), (3, 5)]
        { boot .chip8 with config := { testConfig .chip8 with jumpQuirk := .vx } }) (fun t => t.pc == 0x310) = true := by decide

theorem test_exit_C15 :
    ran 0x00FD { boot .schip with pc := 0x20C } (fun t => t.finished && t.pc == 0x20E) = true := by decide

theorem test_load_add_immediate_copy_A1_A2_R254 :
    ran 0x600A (boot .chip8) (fun t => t.reg 0 == 0x0A) = true ∧
      ran 0x7001 (withV [(0, 0xFF), (15, 0x55)] (boot .chip8)) (fun t => t.reg 0 == 0 && t.reg 15 == 0x55) = true ∧
      ran 0x8120 (withV [(2, 0x33)] (boot .chip8)) (fun t => t.reg 1 == 0x33) = true := by decide

theorem test_logic_A4_A5_A6 :
    ran 0x8011 (withV [(0, 0x0F), (1, 0xF0), (15, 0x55)] (boot .chip8)) (fun t => t.reg 0 == 0xFF && t.reg 15 == 0x55) = true ∧
      ran 0x8012 (withV [(0, 0x3C), (1, 0x0F)] (boot .chip8)) (fun t => t.reg 0 == 0x0C) = true ∧
      ran 0x8003 (withV [(0, 0xAB)] (boot .chip8)) (fun t => t.reg 0 == 0) = true := by decide

theorem test_add_A7_A8 :
    ran 0x8F14 (withV [(15, 0x10), (1, 0xF5)] (boot .chip8)) (fun t => t.reg 15 == 0xF6) = true ∧
      ran 0x8F14 (withV [(15, 0x10), (1, 0xF5)] (flagLast (boot .chip8))) (fun t => t.reg 15 == 0x01) = true ∧
      ran 0x80F4 (withV [(0, 0x10), (15, 0xF5)] (boot .chip8)) (fun t => t.reg 0 == 0x11 && t.reg 15 == 1) = true ∧
      ran 0x80F4 (withV [(0, 0x10), (15, 0xF5)] (flagLast (boot .chip8))) (fun t => t.reg 0 == 0x05 && t.reg 15 == 1) = true := by
  decide

theorem test_sub_A12_A15 :
    ran 0x8015 (withV [(0, 0), (1, 1)] (boot .chip8)) (fun t => t.reg 0 == 0xFF && t.reg 15 == 0) = true ∧
      ran 0x8F15 (withV [(15, 5), (1, 3)] (boot .chip8)) (fun t => t.reg 15 == 0xFE) = true := by decide

theorem test_subn_A13_W11 :
    ran 0x8017 (withV [(0, 0x10), (1, 0x10)] (boot .chip8)) (fun t => t.reg 0 == 0 && t.reg 15 == 1) = true ∧
      ran 0x8017 (withV [(0, 0x05), (1, 0x03)] (boot .chip8)) (fun t => t.reg 0 == 0xFE && t.reg 15 == 0) = true := by decide

theorem test_shr_W5 :
    ran 0x8126 (withV [(1, 0), (2, 5)] (boot .chip8)) (fun t => t.reg 1 == 2 && t.reg 15 == 1 && t.reg 2 == 5) = true ∧
      ran 0x8126 (withV [(1, 0), (2, 5)] (boot .schip)) (fun t => t.reg 1 == 0 && t.reg 15 == 0 && t.reg 2 == 5) = true := by decide

theorem test_shl_W5 :
    ran 0x812E (withV [(1, 0x81), (2, 0x40)] (boot .chip8)) (fun t => t.reg 1 == 0x80 && t.reg 15 == 0) = true ∧
      ran 0x812E (withV [(1, 0x81), (2, 0x40)] (boot .schip)) (fun t => t.reg 1 == 2 && t.reg 15 == 1) = true := by decide

theorem test_rnd_A22_and_a_queued_draw :
    ran 0xC000 { boot .chip8 with inputs := ⟨[0xA7], [], [], 0⟩ } (fun t => t.reg 0 == 0) = true ∧
      ran 0xC00F { boot .chip8 with inputs := ⟨[0xA7], [], [], 0⟩ } (fun t => t.reg 0 == 7) = true := by decide

/-- Two executions take two draws (R265, R353). -/
theorem test_draws_are_taken_one_by_one :
    ran 0xC0FF { boot .chip8 with inputs := ⟨[0xA7, 0x31], [], [], 0⟩ }
        (fun t => t.reg 0 == 0xA7 && ran 0xC1FF t (fun u => u.reg 1 == 0x31 && u.inputs.taken == 2)) = true ∧
      ran 0xE09E { boot .chip8 with inputs := ⟨[], [true, false], [], 0⟩ }
        (fun t => t.inputs.keyAnswers == [false] && t.inputs.taken == 1) = true := by decide

theorem test_ld_i_M1 : ran 0xA300 (boot .chip8) (fun t => t.I == 0x300) = true := by decide

theorem test_add_i_M2_M4 :
    ran 0xF01E (withV [(0, 2)] { boot .chip8 with I := 0xFFFF }) (fun t => t.I == 1 && t.reg 15 == 1) = true ∧
      ran 0xFF1E (withV [(15, 0xFF)] { boot .chip8 with I := 0xF00 }) (fun t => t.I == 0xF00 && t.reg 15 == 0) = true ∧
      ran 0xFF1E (flagLast (withV [(15, 0xFF)] { boot .chip8 with I := 0xF00 }))
        (fun t => t.I == 0xFFF && t.reg 15 == 0) = true := by decide

theorem test_glyphs_M5_M6 :
    ran 0xF029 (withV [(0, 0x1A)] (boot .chip8)) (fun t => t.I == 0x1B0 + 50) = true ∧
      ran 0xF030 (withV [(0, 3)] (boot .schip)) (fun t => t.I == 0x110 + 30) = true := by decide

theorem test_bcd_M7_M8 :
    ran 0xF033 (withV [(0, 123)] { boot .chip8 with I := 0x300 })
        (fun t => (List.range 3).map (fun k => t.readByte (0x300 + k)) == [1, 2, 3] && t.I == 0x300) = true ∧
      ran 0xF033 (withV [(0, 123)] { boot .chip8 with I := 0xFFF })
        (fun t => [0xFFF, 0, 1].map (fun a => t.readByte a) == [1, 2, 3]) = true ∧
      ran 0xF033 (withV [(0, 123)] { clamped (boot .chip8) with I := 0xFFF }) (fun t => t.readByte 0xFFF == 3) = true := by decide

theorem test_register_save_M9_M11 :
    ran 0xF255 (withV [(0, 1), (1, 2), (2, 3)] { boot .chip8 with I := 0x300 })
        (fun t => (List.range 3).map (fun k => t.readByte (0x300 + k)) == [1, 2, 3] && t.I == 0x303) = true ∧
      ran 0xF255 (withV [(0, 1), (1, 2), (2, 3)] { boot .schip with I := 0x300 })
        (fun t => t.readByte 0x302 == 3 && t.I == 0x300) = true := by decide

theorem test_register_load_M13_compatible :
    ran 0xF265 (withBytes 0x300 [2, 5, 4] { boot .chip8 with I := 0x300 })
        (fun t => [0, 1, 2, 3].map t.reg == [2, 5, 4, 0] && t.I == 0x303) = true ∧
      ran 0xF265 (withBytes 0x300 [2, 5, 4]
        { boot .chip8 with I := 0x300, config := { testConfig .chip8 with compatibilityMode := true } })
        (fun t => [0, 1, 2, 3].map t.reg == [2, 5, 4, 0] && t.I == 0x300) = true := by decide

theorem test_flag_registers_M15 :
    ran 0xF175 (withV [(0, 0xAA), (1, 0xBB), (2, 0xCC)] (boot .schip))
        (fun t => [0, 1, 2].map t.flagReg == [0xAA, 0xBB, 0]) = true ∧
      ran 0xF185 (((boot .schip).setFlagReg 0 0xAA).setFlagReg 1 0xBB) (fun t => t.reg 0 == 0xAA && t.reg 1 == 0xBB) = true := by
  decide

theorem test_range_save_M18 :
    ran 0x5132 (withV [(1, 0x11), (2, 0x22), (3, 0x33)] { boot .xochip with I := 0x400 })
        (fun t => (List.range 4).map (fun k => t.readByte (0x400 + k)) == [0x11, 0x22, 0x33, 0] && t.I == 0x400) = true ∧
      ran 0x5312 (withV [(1, 0x11), (2, 0x22), (3, 0x33)] { boot .xochip with I := 0x400 })
        (fun t => (List.range 4).map (fun k => t.readByte (0x400 + k)) == [0x33, 0x22, 0x11, 0]) = true := by decide

theorem test_range_load_M19 :
    ran 0x5313 (withBytes 0x400 [0x11, 0x22, 0x33] { boot .xochip with I := 0x400 })
      (fun t => [0, 1, 2, 3, 4].map t.reg == [0, 0x33, 0x22, 0x11, 0]) = true := by decide

theorem test_long_index_E17_M21 :
    ran 0xF000 { boot .xochip with pc := 0x200 } (fun t => t.I == 0 && t.pc == 0x204) = true ∧
      (match step (withBytes 0xFFFE [0xF0, 0x00] (withBytes 0 [0xAB, 0xCD] { boot .xochip with pc := 0xFFFE })) with
        | .next t => t.I == 0xABCD && t.pc == 0x0002
        | _ => false) = true := by decide

theorem test_audio_M22 :
    ran 0xF002 (withBytes 0x500 [0, 1, 2, 3, 4, 5, 6, 7, 8, 9, 10, 11, 12, 13, 14, 15] { boot .xochip with I := 0x500 })
      (fun t => t.pattern.toList == [0, 1, 2, 3, 4, 5, 6, 7, 8, 9, 10, 11, 12, 13, 14, 15] && t.I == 0x500) = true := by decide +kernel

theorem test_delay_timer_T1 :
    ran 0xF315 (withV [(3, 0x3C)] (boot .chip8)) (fun t => t.DT == 0x3C) = true ∧
      ran 0xF407 { boot .chip8 with DT := 0x3C } (fun t => t.reg 4 == 0x3C && t.DT == 0x3C) = true := by decide

theorem test_sound_timer_T2_T3_T4_T5 :
    ran 0xF018 (withV [(0, 0x10)] (boot .chip8)) (fun t => t.ST == 0x10 && t.events == [.beepStart]) = true ∧
      ran 0xF018 (withV [(0, 0x10)] { boot .chip8 with ST := 5 }) (fun t => t.ST == 0x10 && t.events == []) = true ∧
      ran 0xF018 { boot .chip8 with ST := 5 } (fun t => t.ST == 0 && t.events == [.beepStop]) = true ∧
      ran 0xF018 (boot .chip8) (fun t => t.events == []) = true := by decide

theorem test_update_timers_T6_T7 :
    (updateTimers { boot .chip8 with DT := 2, ST := 1 }).DT = 1 ∧ (updateTimers { boot .chip8 with DT := 2, ST := 1 }).ST = 0 ∧
      (updateTimers { boot .chip8 with DT := 2, ST := 1 }).events = [.beepStop] ∧
      (updateTimers (boot .chip8)).DT = 0 ∧ (updateTimers (boot .chip8)).ST = 0 ∧ (updateTimers (boot .chip8)).events = [] := by
  decide

theorem test_key_skips_T8_T9 :
    ran 0xE09E { boot .chip8 with inputs := ⟨[], [true], [], 0⟩ } (fun t => t.pc == 0x204) = true ∧
      ran 0xE0A1 { boot .chip8 with inputs := ⟨[], [true], [], 0⟩ } (fun t => t.pc == 0x202) = true ∧
      ran 0xE09E { boot .chip8 with inputs := ⟨[], [false], [], 0⟩ } (fun t => t.pc == 0x202) = true ∧
      ran 0xE0A1 { boot .chip8 with inputs := ⟨[], [false], [], 0⟩ } (fun t => t.pc == 0x204) = true := by decide

theorem test_key_wait_T11_T12_T13_E18 :
    ran 0xF30A (boot .chip8) (fun t => t.waitingForKey && t.waitingForKeyRegister == 3 && t.pc == 0x202 && t.reg 3 == 0) = true ∧
      (match step { boot .chip8 with pc := 0x201, waitingForKey := true, waitingForKeyRegister := 3,
                                     inputs := ⟨[], [], [⟨false, 7⟩], 0⟩ } with
        | .next t => t.waitingForKey && t.reg 3 == 0 && t.pc == 0x201
        | _ => false) = true ∧
      (match step { boot .chip8 with pc := 0x201, waitingForKey := true, waitingForKeyRegister := 3,
                                     inputs := ⟨[], [], [⟨true, 7⟩], 0⟩ } with
        | .next t => !t.waitingForKey && t.reg 3 == 7 && t.pc == 0x201
        | _ => false) = true := by decide

/-- The rest of this file's display tests start from a sprite at 0x300. -/
def sprite (v : Variant) (l : List Byte) : State := withBytes 0x300 l { boot v with I := 0x300 }

/-- Columns 0 to 7 of row 0 are bits 0 to 7 of the plane. -/
theorem test_drw_P1_P2 :
    ran 0xD011 (sprite .chip8 [0xFF]) (fun t => t.planes == [0xFF#8192] && t.reg 15 == 0) = true ∧
      ran 0xD011 { sprite .chip8 [0xFF] with planes := [0xFF#8192] } (fun t => t.planes == [0#8192] && t.reg 15 == 1) = true := by decide +kernel

/-- Glyph 'A' at (10, 30): three rows beyond the bottom edge. -/
theorem test_drw_P6 :
    ran 0xD015 (withV [(0, 10), (1, 30)] (sprite .chip8 [0xF0, 0x90, 0xF0, 0x90, 0x90]))
      (fun t => t.planes == [(0xF#8192 <<< (30 * 64 + 10)) ||| (0x9#8192 <<< (31 * 64 + 10))] && t.reg 15 == 3) = true := by decide +kernel

theorem test_drw_two_planes_P17_P20 :
    ran 0xD011 { sprite .xochip [0x80, 0x01] with planeMask := 3 }
        (fun t => t.planes == [dot 64 0 0, dot 64 7 0] && t.reg 15 == 0) = true ∧
      ran 0xD011 { sprite .xochip [0x80, 0x80] with planeMask := 3, planes := [dot 64 0 0, dot 64 0 0] }
        (fun t => t.planes == [0#8192, 0#8192] && t.reg 15 == 2) = true := by decide +kernel

/-- 16 by 16 at (120, 60) on the high-resolution screen: four rows of eight columns, twelve rows beyond the bottom edge. -/
theorem test_drw16_P14 :
    ran 0xD010 (withV [(0, 120), (1, 60)] { sprite .schip (List.replicate 32 0xFF) with highResolution := true })
      (fun t => t.planes == [(0xFF#8192 <<< (60 * 128 + 120)) ||| (0xFF#8192 <<< (61 * 128 + 120)) |||
        (0xFF#8192 <<< (62 * 128 + 120)) ||| (0xFF#8192 <<< (63 * 128 + 120))] && t.reg 15 == 12) = true := by decide +kernel

theorem test_cls_P22 :
    ran 0x00E0 { boot .xochip with planeMask := 2, planes := [dot 64 3 3, dot 64 9 9] }
      (fun t => t.planes == [dot 64 3 3, 0#8192]) = true := by decide +kernel

theorem test_scdown_W8_P24 :
    ran 0x00C4 { boot .schip with highResolution := true, planes := [dot 128 5 0] }
        (fun t => t.planes == [dot 128 5 4]) = true ∧
      ran 0x00CF { boot .schip with planes := [dot 64 0 16 ||| dot 64 0 17] } (fun t => t.planes == [dot 64 0 31]) = true := by decide +kernel

theorem test_scup_P26_P27 :
    ran 0x00D3 { boot .xochip with planes := [dot 64 5 10, dot 64 5 10] }
        (fun t => t.planes == [dot 64 5 7, dot 64 5 10]) = true ∧
      ran 0x00D3 { boot .xochip with planes := [dot 64 5 1, 0] } (fun t => t.planes == [0#8192, 0#8192]) = true := by decide +kernel

theorem test_scright_P28 :
    ran 0x00FB { boot .schip with planes := [dot 64 60 0 ||| dot 64 0 0] } (fun t => t.planes == [dot 64 4 0]) = true := by decide +kernel

theorem test_scleft_P31 :
    ran 0x00FC { boot .schip with planes := [dot 64 63 0] } (fun t => t.planes == [dot 64 59 0]) = true := by decide +kernel

theorem test_high_P33_low_P34 :
    ran 0x00FF { boot .schip with planes := [dot 64 10 1] }
        (fun t => t.planes == [dot 128 74 0] && t.highResolution && t.events == [.highResolutionConfigured]) = true ∧
      ran 0x00FE { boot .schip with highResolution := true, planes := [dot 128 74 0 ||| dot 128 0 16 ||| dot 128 127 63] }
        (fun t => t.planes == [dot 64 10 1] && !t.highResolution && t.events == [.lowResolutionConfigured]) = true := by decide +kernel

theorem test_plane_P37 :
    ran 0xF301 (boot .xochip) (fun t => t.planeMask == 3) = true ∧
      ran 0xFF01 (boot .xochip) (fun t => t.planeMask == 15) = true := by decide +kernel

/-- Vector W10. -/
theorem test_loader_skips_the_header :
    (match loadRom (romSignature ++ [1, 2, 3, 4, 5, 0xAB, 0xCD]) (boot .chip8) with
      | some t => (List.range 3).map (fun k => t.readByte (0x200 + k)) == [0xAB, 0xCD, 0]
      | none => false) = true := by decide +kernel

/-- Vectors I1 to I4. -/
theorem test_reset_values :
    State.reset.pc = 0x200 ∧ State.reset.planeMask = 1 ∧ State.reset.planes = [0, 0] ∧
      (List.range 5).map (fun k => (boot .chip8).readByte (0x1B0 + k)) = [0xF0, 0x90, 0x90, 0x90, 0xF0] ∧
      (List.range 5).map (fun k => (boot .chip8).readByte (0x1B0 + 75 + k)) = [0xF0, 0x80, 0xF0, 0x80, 0x80] := by decide +kernel

/-- Every row of the table that the host places after reset decodes and completes; row `DRW` gives `DRW16` (log 20). -/
theorem test_placed_words_run :
    [0x00E0, 0x8014, 0xD000, 0x5002, 0xF000, 0xF00A, 0xF075].all (fun w =>
      (decodeTableWord 16 w).isSome &&
        match step (State.reset.withFetchWord 16 w) with
        | .next _ => true
        | _ => false) = true := by decide +kernel

/-! ### Witnesses: a state and operands that meet the hypotheses of each statement that has some, clause by clause -/

/-- A machine with an instruction word where the next step fetches it. -/
def at200 (v : Variant) (w : Nat) : State := (boot v).withFetchWord 16 w

theorem witness_DecodeOfEncodeIsTheInstruction :
    (Instr.drw16 1 2).wellFormed .schip = true ∧ (Instr.drw 1 2 0).wellFormed .chip8 = true ∧
      (Instr.drw 15 15 15).wellFormed .xochip = true ∧ Instr.ldILong.wellFormed .xochip = true := by decide

theorem witness_EncodeOfDecodeIsTheWord :
    decode .chip8 0x0000 = .error .illegalInstruction ∧ decode .chip8 0xD120 = .ok (.drw 1 2 0) ∧
      decode .xochip 0xFF85 = .ok (.ldVxR 15) := by decide

theorem witness_RejectedWordsAreClassified :
    decode .schip 0x5122 = .error .variantViolation ∧ decode .xochip 0x5122 = .ok (.save 1 2) ∧
      decode .chip8 0xFFFF = .error .illegalInstruction := by decide

theorem witness_HigherVariantsExtendLowerOnes :
    decode .schip 0x00FF = .ok .high ∧ decode .chip8 0xD120 = .ok (.drw 1 2 0) ∧ decode .chip8 0xD121 = .ok (.drw 1 2 1) := by
  decide

theorem witness_LayersAgreeWithTheOpcodeTable :
    layerDecode .xo 0xF000 = some .ldILong ∧ (⟨"LD_I_LONG", .xo, 0xFFFF, 0xF000⟩ : OpcodeRow) ∈ opcodeTable ∧
      (⟨"LD_I_LONG", .xo, 0xFFFF, 0xF000⟩ : OpcodeRow).accepts 0xF000 = true := by decide

theorem witness_RowsOfOneLayerNeverOverlap :
    (⟨"DRW16", .schip, 0xF00F, 0xD000⟩ : OpcodeRow) ∈ opcodeTable ∧
      (⟨"DRW16", .schip, 0xF00F, 0xD000⟩ : OpcodeRow).accepts 0xD120 = true := by decide

/-- At an even `pc`, and at an odd one where it may be fetched. -/
theorem witness_StepRunsTheDecodedInstruction :
    (let s := at200 .chip8 0x1234
     s.waitingForKey = false ∧ s.pc.toNat % 2 = 0 ∧
      decode s.config.variant (s.readByte s.pc.toNat ++ s.readByte (s.pc.toNat + 1)) = .ok (.jp 0x234)) ∧
    (let s := withBytes 0x201 [0x60, 0x05] { anyPc (boot .chip8) with pc := 0x201 }
     s.waitingForKey = false ∧ s.config.allowMisaligned = true ∧
      decode s.config.variant (s.readByte s.pc.toNat ++ s.readByte (s.pc.toNat + 1)) = .ok (.ldImm 0 5)) := by decide

/-- Each of the four faults is raised by a state. -/
theorem witness_StepFaultsExactlyAsListed :
    faulted { boot .chip8 with pc := 0x201 } = some (.misalignedInstructionFetch 0x201) ∧
      faulted (at200 .xochip 0xFFFF) = some (.illegalInstruction 0xFFFF 0x200) ∧
      faulted (at200 .chip8 0x00FD) = some (.variantViolation 0x00FD 0x200) ∧
      faulted (at200 .schip 0xF885) = some (.flagRegisterIndex 0xF885 0x200) ∧
      faulted (at200 .schip 0xF785) = none := by decide

theorem witness_MisalignedFetchFaultsBeforeDecode :
    (let s := { boot .chip8 with pc := 0x201 }
     s.waitingForKey = false ∧ s.pc.toNat % 2 = 1 ∧ s.config.allowMisaligned = false) := by decide

/-- The premise at the highest register number that completes, and for an operation it says nothing about. -/
theorem witness_EveryInstructionCompletes :
    (∀ x : Nibble, 7 < x.toNat → Instr.ldRVx 7 ≠ .ldRVx x ∧ Instr.ldRVx 7 ≠ .ldVxR x) ∧
      (∀ x : Nibble, 7 < x.toNat → Instr.cls ≠ .ldRVx x ∧ Instr.cls ≠ .ldVxR x) := by decide

/-- In the key-wait, with a pressed key and with none. -/
def waiting (p : Bool) : State :=
  { boot .chip8 with waitingForKey := true, waitingForKeyRegister := 15, inputs := ⟨[], [], [⟨p, 15⟩], 0⟩ }

theorem witness_KeyWaitStepPollsTheKeyboard :
    (waiting true).waitingForKey = true ∧ (waiting true).keyPoll.pressed = true ∧ (waiting false).waitingForKey = true ∧
      (waiting false).keyPoll.pressed = false := by decide

theorem witness_KeyWaitIsEnteredOnlyByLdVxK :
    (at200 .chip8 0xFF0A).waitingForKey = false ∧ ran 0xFF0A (boot .chip8) (fun t => t.waitingForKey) = true ∧
      ran 0x00E0 (boot .chip8) (fun t => !t.waitingForKey) = true ∧ (waiting true).waitingForKey = true ∧
      step (waiting true) = .next (resolveKeyWait (waiting true)) := ⟨rfl, by decide, by decide, rfl, rfl⟩

theorem witness_FinishedIsWrittenByExitOnlyAndNeverRead :
    exec .exit (boot .schip) = .next { boot .schip with finished := true } ∧
      exec (.ldI 3) (boot .schip) = .next { boot .schip with I := 3 } := ⟨rfl, rfl⟩

theorem witness_BeepEventsAreTheEdgesOfST :
    ran 0xF018 (withV [(0, 1)] (boot .chip8)) (fun t => t.ST == 1) = true ∧
      ran 0xF018 { boot .chip8 with ST := 1 } (fun t => t.ST == 0) = true ∧ (updateTimers { boot .chip8 with ST := 1 }).ST = 0 := by
  decide

/-- The invariant holds of a machine with a program word stored, under each variant, and the step runs the word. -/
theorem witness_EveryStepKeepsTheInvariant (v : Variant) :
    Inv (at200 v 0x6A05) ∧ ran 0x6A05 (boot v) (fun t => t.reg 10 == 5) = true := by
  refine ⟨⟨?_, ?_, ?_, ?_, ?_, ?_, ?_⟩, ?_⟩
  · cases v <;> decide
  · cases v <;> decide
  · intro pl h i _
    have hp : (at200 v 0x6A05).planes = List.replicate (numPlanes (testConfig v)) 0 := by cases v <;> rfl
    rw [hp] at h
    rw [List.eq_of_mem_replicate h]
    simp [Plane.cell]
  · cases v <;> decide
  · cases v <;> decide
  · cases v <;> decide
  · cases v <;> decide
  · cases v <;> decide

/-- The invariant beside a ROM that loads, under each variant. -/
theorem witness_HostCallsKeepTheInvariant (v : Variant) :
    Inv (at200 v 0x6A05) ∧ (loadRom [0xAB, 0xCD] (at200 v 0x6A05)).isSome = true := by
  refine ⟨(witness_EveryStepKeepsTheInvariant v).1, ?_⟩
  cases v <;> decide

theorem witness_ResolutionRoundTrip : Inv (at200 .schip 0x6A05) ∧ (at200 .schip 0x6A05).highResolution = false :=
  ⟨(witness_EveryStepKeepsTheInvariant .schip).1, rfl⟩

/-- The low font may end exactly at LOAD_ADDRESS and begin exactly where the high one ends, or the other way round; the state
before the call is any, here one that has run. -/
theorem witness_InitialiseGivesTheResetValues :
    configWf { boot .xochip with pc := 0x300, DT := 7, finished := true, events := [.beepStart] }.config = true ∧
      configWf { testConfig .chip8 with lowFontBase := 0, highFontBase := 80 } = true ∧
      configWf { testConfig .chip8 with lowFontBase := 0, highFontBase := 79 } = false := by decide +kernel

/-- `Initialise()` called in a state that has run (vectors I1, I2; log 8). -/
theorem test_initialise_call :
    (match call .initialise { withV [(3, 9)] (boot .xochip) with
        pc := 0x300, DT := 7, finished := true, planeMask := 3, events := [.beepStart] } with
      | .next t => t.reg 3 == 0 && t.pc == 0x200 && t.DT == 0 && !t.finished && t.planeMask == 1 && t.events == [.beepStart]
      | _ => false) = true := by decide

/-- A ROM that ends at the top of the smaller memory, and one with a header. -/
theorem witness_LoaderPlacesThePayload :
    0x200 + (List.replicate 3584 (1 : Byte)).length ≤ memorySize (testConfig .chip8) ∧
      0x200 + ((romSignature ++ [1, 2, 3, 4, 5, 0xAB]).drop 13).length ≤ memorySize (testConfig .chip8) ∧
      (romSignature ++ [1, 2, 3, 4, 5, 0xAB]).take 8 = [0x48, 0x50, 0x48, 0x50, 0x34, 0x38, 0x2D, 0x41] := by
  rw [List.length_replicate]; decide

theorem witness_OtherInstructionsLeaveMemory :
    exec (.jp 0x234) (boot .chip8) = .next { boot .chip8 with pc := 0x234 } ∧
      (Instr.jp 0x234).mnemonic ∉ ["LD_B", "LD_MEM_VX", "SAVE"] := ⟨rfl, by decide⟩

/-- An address just beyond the three stored bytes, and one that wraps onto none of them. -/
theorem witness_StoresLeaveEveryOtherByte :
    (let s := { boot .chip8 with I := 0xFFE }
     ∀ k, k < 3 → addr s.config 1 ≠ addr s.config (s.indexed k)) ∧
    (let s := { clamped (boot .chip8) with I := 0xFFE }
     ∀ k, k < 16 → addr s.config 0 ≠ addr s.config (s.indexed k)) := by decide

/-- `VF` beside an operation that writes no flag, and a register beside the destination. -/
theorem witness_OnlyDestinationsAndVFChange :
    (exec (.ldI 3) (boot .chip8) = .next { boot .chip8 with I := 3 } ∧ ¬ IsDestination (.ldI 3) 15 ∧
      ¬ ((15 : Nibble) = 15 ∧ (Instr.ldI 3).mnemonic ∈ ["ADD_REG", "SUB", "SUBN", "SHR", "SHL", "ADD_I", "DRW", "DRW16"])) ∧
    (exec (.ldVxMem 2) (boot .chip8) = .next ((loadRegs 3 (BitVec.ofNat 4) (boot .chip8)).bumpI 2) ∧
      ¬ IsDestination (.ldVxMem 2) 3) :=
  ⟨⟨rfl, by simp [IsDestination], by decide⟩, rfl, by simp [IsDestination]⟩

theorem witness_EachFieldHasItsWriters :
    exec .exit (boot .schip) = .next { boot .schip with finished := true } ∧ Instr.exit.mnemonic ≠ "CALL" := ⟨rfl, by decide⟩

/-- Under Mask at the last address of the space, and under Clamp with sixteen bytes left; each form of a short and a long store. -/
theorem witness_StoreOverTheNextInstructionIsFetched :
    (let s := { boot .xochip with I := 0xFFFF, pc := 0xFFFF }
     s.config.addressWrap = .mask ∧ s.I = s.pc) ∧
    (let s := { clamped (boot .chip8) with I := 0xFF0, pc := 0xFF0 }
     s.config.addressWrap ≠ .mask ∧ s.pc.toNat + 16 ≤ memorySize s.config ∧ s.I = s.pc) ∧
    (0 : Nibble).toNat = 0 ∧ (15 : Nibble).toNat ≠ 0 ∧ rangeReg 4 3 1 = 3 ∧ rangeReg 3 4 1 = 4 := by decide

/-- A base CHIP-8 machine whose `I` is the last address. -/
def topIndex : State := { boot .chip8 with I := 0xFFF }

/-- A stored byte at the top of memory: under Mask the second byte wraps to 0; under Clamp the last of three stays. -/
theorem witness_DecimalDigitsAreStored :
    (SameByte topIndex 0 (topIndex.I.toNat + 1) ∧ (∀ j, 1 < j → j < 3 → ¬ SameByte topIndex 0 (topIndex.I.toNat + j)) ∧
      ∀ k, k < 3 → ¬ SameByte topIndex 2 (topIndex.I.toNat + k)) ∧
    (SameByte (clamped topIndex) 0xFFF ((clamped topIndex).I.toNat + 2) ∧
      ∀ k, k < 3 → ¬ SameByte (clamped topIndex) 0xFFE ((clamped topIndex).I.toNat + k)) := by
  have hm : ∀ a b, SameByte topIndex a b ↔ a % 4096 = b % 4096 := fun _ _ => Iff.rfl
  have hc : ∀ a b, SameByte (clamped topIndex) a b ↔ min a 4095 = min b 4095 := fun _ _ => Iff.rfl
  have hi : topIndex.I.toNat = 4095 ∧ (clamped topIndex).I.toNat = 4095 := ⟨rfl, rfl⟩
  simp only [hm, hc, hi.1, hi.2]
  exact ⟨⟨by decide, fun j _ _ => by omega, fun k _ => by omega⟩, by decide, fun k _ => by omega⟩

/-- The sixteenth byte of a save of all registers wraps to 14; the byte after it is outside. -/
theorem witness_RegisterSave :
    SameByte topIndex 14 (topIndex.I.toNat + 15) ∧
      (∀ j, 15 < j → j < (15 : Nibble).toNat + 1 → ¬ SameByte topIndex 14 (topIndex.I.toNat + j)) ∧
      ∀ k, k < (15 : Nibble).toNat + 1 → ¬ SameByte topIndex 15 (topIndex.I.toNat + k) := by
  have hm : ∀ a b, SameByte topIndex a b ↔ a % 4096 = b % 4096 := fun _ _ => Iff.rfl
  have hi : topIndex.I.toNat = 4095 := rfl
  have h15 : (15 : Nibble).toNat = 15 := rfl
  simp only [hm, hi, h15]
  exact ⟨by decide, fun j _ _ => by omega, fun k _ => by omega⟩

/-- The range bounds: the highest `x` that completes and the lowest that faults. -/
theorem witness_FlagRegistersSaveAndLoad : (7 : Nibble).toNat ≤ 7 ∧ 7 < (8 : Nibble).toNat := by decide

theorem witness_FlagRegisterIndexFaults : 7 < (8 : Nibble).toNat ∧ 7 < (15 : Nibble).toNat := by decide

/-- A register inside and one outside each direction of a range. -/
theorem witness_RangeSaveAndLoad :
    2 < rangeLength 1 3 ∧ 2 < rangeLength 3 1 ∧ ¬ 3 < rangeLength 3 1 ∧ rangeReg 3 1 2 = 1 ∧ rangeReg 1 3 2 = 3 ∧ rangeLength 4 4 = 1 ∧
      (0 : Nibble).toNat < min (3 : Nibble).toNat (1 : Nibble).toNat ∧ max (3 : Nibble).toNat (1 : Nibble).toNat < (4 : Nibble).toNat := by
  decide

theorem witness_LongIndexLoad :
    (let s := withBytes 0xFFFE [0xF0, 0x00] { boot .xochip with pc := 0xFFFE }
     s.config.variant = .xochip ∧ s.waitingForKey = false ∧ s.pc.toNat % 2 = 0 ∧
      s.readByte s.pc.toNat ++ s.readByte (s.pc.toNat + 1) = 0xF000#16) := by decide

/-- One plane and two, one of them selected. -/
theorem witness_DrawIsPixelwiseXorWithRowCount :
    (boot .chip8).planes.length = numPlanes (boot .chip8).config ∧ (boot .xochip).planes.length = numPlanes (boot .xochip).config ∧
      Selected (boot .xochip) 0 ∧ ¬ Selected (boot .xochip) 1 ∧ 63 < (boot .xochip).width ∧ 31 < (boot .xochip).height :=
  ⟨rfl, rfl, ⟨by decide, by decide⟩, fun h => absurd h.2 (by decide), by decide, by decide⟩

theorem witness_DrawTwiceRestoresThePlanes : (boot .xochip).planes.length = numPlanes (boot .xochip).config := rfl

theorem witness_ClsClearsTheSelectedPlanes :
    (0 < (boot .xochip).planes.length ∧ Selected (boot .xochip) 0) ∧ 1 < (boot .xochip).planes.length ∧ ¬ Selected (boot .xochip) 1 :=
  ⟨⟨by decide, by decide, by decide⟩, by decide, fun h => absurd h.2 (by decide)⟩

/-- The last row and column as destination, the first as source, at the last pixel. -/
theorem witness_LinePrimitivesCopyAndClear :
    (let s := boot .schip
     0 < s.planes.length ∧ Selected s 0 ∧ 63 < s.width ∧ 31 < s.height ∧ 0 < s.height ∧ 0 < s.width ∧ ¬ 64 < s.width) :=
  ⟨by decide, ⟨by decide, by decide⟩, by decide, by decide, by decide, by decide, by decide⟩

theorem witness_VerticalScrollsMoveByRows :
    (let s := boot .xochip
     (0 < s.planes.length ∧ Selected s 0 ∧ 63 < s.width ∧ 31 < s.height) ∧ 1 < s.planes.length ∧ ¬ Selected s 1) :=
  ⟨⟨by decide, ⟨by decide, by decide⟩, by decide, by decide⟩, by decide, fun h => absurd h.2 (by decide)⟩

theorem witness_HorizontalScrollsMoveByFour :
    (let s := { boot .xochip with highResolution := true }
     (0 < s.planes.length ∧ Selected s 0 ∧ 127 < s.width ∧ 63 < s.height) ∧ 1 < s.planes.length ∧ ¬ Selected s 1) :=
  ⟨⟨by decide, ⟨by decide, by decide⟩, by decide, by decide⟩, by decide, fun h => absurd h.2 (by decide)⟩

end Sys2Proof.Tests
end

section
/-! The decoder's layers: what each higher layer accepts, and where two layers meet (30_encoding.md R120 to R123). -/

namespace Sys2Proof

/-- A variant decodes a word exactly if one of its active layers gives the operation (R120). -/
theorem decode_eq_ok_iff {v : Variant} {w : Word} {i : Instr} : decode v w = .ok i ↔ activeLayers v w = some i := by
  unfold decode
  cases activeLayers v w with
  | some j => simp
  | none => simp only [reduceCtorEq, iff_false]; split <;> simp

/-- The rows of the XO-Chip layer (R123). -/
theorem xoLayer_cases {w : Word} {i : Instr} (h : xoLayer w = some i) :
    (fieldOp w = 0x0#4 ∧ w.extractLsb' 4 12 = 0x00D#12 ∧ i = .scup (fieldN w)) ∨
      (fieldOp w = 0x5#4 ∧ fieldN w = 2#4 ∧ i = .save (fieldX w) (fieldY w)) ∨
      (fieldOp w = 0x5#4 ∧ fieldN w = 3#4 ∧ i = .load (fieldX w) (fieldY w)) ∨
      (w = 0xF000#16 ∧ i = .ldILong) ∨
      (fieldOp w = 0xF#4 ∧ fieldNN w = 0x01#8 ∧ i = .plane (fieldX w)) ∨
      (w = 0xF002#16 ∧ i = .audio) := by
  unfold xoLayer at h
  split at h
  case h_4 => cases h
  all_goals
    split_ifs at h <;> cases h <;> simp [← BitVec.toNat_inj (x := fieldOp w), *]

/-- The rows of the SuperChip layer (R122). -/
theorem schipLayer_cases {w : Word} {i : Instr} (h : schipLayer w = some i) :
    (fieldOp w = 0x0#4 ∧ w.extractLsb' 4 12 = 0x00C#12 ∧ i = .scdown (fieldN w)) ∨
      (w = 0x00FB#16 ∧ i = .scright) ∨ (w = 0x00FC#16 ∧ i = .scleft) ∨ (w = 0x00FD#16 ∧ i = .exit) ∨
      (w = 0x00FE#16 ∧ i = .low) ∨ (w = 0x00FF#16 ∧ i = .high) ∨
      (fieldOp w = 0xD#4 ∧ fieldN w = 0#4 ∧ i = .drw16 (fieldX w) (fieldY w)) ∨
      (fieldOp w = 0xF#4 ∧ fieldNN w = 0x30#8 ∧ i = .ldHf (fieldX w)) ∨
      (fieldOp w = 0xF#4 ∧ fieldNN w = 0x75#8 ∧ i = .ldRVx (fieldX w)) ∨
      (fieldOp w = 0xF#4 ∧ fieldNN w = 0x85#8 ∧ i = .ldVxR (fieldX w)) := by
  unfold schipLayer at h
  split at h
  case h_4 => cases h
  all_goals
    split_ifs at h <;> cases h <;> simp [← BitVec.toNat_inj (x := fieldOp w), *]

/-- The base layer's only row for `DRW` is major opcode D (R121). -/
theorem baseLayer_eq_drw {w : Word} {x y n : Nibble} (h : baseLayer w = some (.drw x y n)) :
    fieldOp w = 0xD#4 ∧ fieldX w = x ∧ fieldY w = y ∧ fieldN w = n := by
  unfold baseLayer at h
  split at h
  case h_14 hop => exact ⟨BitVec.eq_of_toNat_eq hop, by simpa using h⟩
  case h_9 => unfold baseArithmetic at h; split at h <;> simp at h
  case h_16 => unfold baseMisc at h; split at h <;> simp at h
  -- Every other row gives another constructor.
  all_goals grind

/-- A word with a row in the XO-Chip layer has none in the layers below. -/
theorem lowerLayers_eq_none_of_xoLayer {w : Word} {i : Instr} (h : xoLayer w = some i) :
    schipLayer w = none ∧ baseLayer w = none := by
  obtain ⟨hop, hhi, -⟩ | ⟨hop, hn, -⟩ | ⟨hop, hn, -⟩ | ⟨rfl, -⟩ | ⟨hop, hnn, -⟩ | ⟨rfl, -⟩ := xoLayer_cases h
  · have hne (c : Word) (hc : c.extractLsb' 4 12 ≠ 0x00D#12) : w ≠ c := fun hwc => hc (hwc ▸ hhi)
    simp [schipLayer, baseLayer, hop, hhi, hne]
  · simp [schipLayer, baseLayer, hop, hn]
  · simp [schipLayer, baseLayer, hop, hn]
  · decide
  · simp [schipLayer, baseLayer, baseMisc, hop, hnn]
  · decide

/-- A word with a row in the SuperChip layer has none in the base layer, but for `DRW16`, whose words are those of `DRW` with
`n = 0` (R120). -/
theorem baseLayer_of_schipLayer {w : Word} {i : Instr} (h : schipLayer w = some i) :
    baseLayer w = none ∨ ∃ x y, baseLayer w = some (.drw x y 0) := by
  obtain ⟨hop, hhi, -⟩ | ⟨rfl, -⟩ | ⟨rfl, -⟩ | ⟨rfl, -⟩ | ⟨rfl, -⟩ | ⟨rfl, -⟩ | ⟨hop, hn, -⟩ | ⟨hop, hnn, -⟩ |
    ⟨hop, hnn, -⟩ | ⟨hop, hnn, -⟩ := schipLayer_cases h
  · have hne (c : Word) (hc : c.extractLsb' 4 12 ≠ 0x00C#12) : w ≠ c := fun hwc => hc (hwc ▸ hhi)
    simp [baseLayer, hop, hne]
  iterate 5 exact .inl (by decide)
  · exact .inr ⟨fieldX w, fieldY w, by simp [baseLayer, hop, hn]⟩
  all_goals simp [baseLayer, baseMisc, hop, hnn]

/-- The SuperChip layer takes `DRW` with `n = 0` as `DRW16` (R120). -/
theorem schipLayer_eq_drw16_of_drw {w : Word} {x y : Nibble} (h : baseLayer w = some (.drw x y 0)) :
    schipLayer w = some (.drw16 x y) := by
  obtain ⟨hop, rfl, rfl, hn⟩ := baseLayer_eq_drw h
  simp [schipLayer, hop, hn]

/-- The SuperChip layer leaves every other word of the base layer alone. -/
theorem schipLayer_eq_none_of_baseLayer {w : Word} {i : Instr} (h : baseLayer w = some i) (hi : ¬ ∃ x y, i = .drw x y 0) :
    schipLayer w = none := by
  refine Option.eq_none_iff_forall_ne_some.2 fun j hj => ?_
  obtain hnone | ⟨x, y, hdrw⟩ := baseLayer_of_schipLayer hj
  · simp [h] at hnone
  · exact hi ⟨x, y, Option.some.inj (h.symm.trans hdrw)⟩

/-- What SCHIP decodes XOCHIP decodes to the same operation (00_scope.md R2). -/
theorem decode_xochip_of_schip {w : Word} {i : Instr} (h : decode .schip w = .ok i) : decode .xochip w = .ok i := by
  rw [decode_eq_ok_iff] at h ⊢
  have hxo : xoLayer w = none := by
    refine Option.eq_none_iff_forall_ne_some.2 fun j hj => ?_
    obtain ⟨hs, hb⟩ := lowerLayers_eq_none_of_xoLayer hj
    simp [activeLayers, hs, hb] at h
  simpa [activeLayers, hxo] using h

/-- Settles O4: an XO-Chip row meets no lower one, and a SuperChip row meets the base layer only where `DRW16` takes `DRW` with
`n = 0`. -/
theorem higherVariantsExtendLowerOnes : Obligations.HigherVariantsExtendLowerOnes := by
  refine fun w i => ⟨decode_xochip_of_schip, fun h => ?_⟩
  have hb : baseLayer w = some i := decode_eq_ok_iff.1 h
  simp only [decode_eq_ok_iff, activeLayers]
  split_ifs with hdrw
  · obtain ⟨x, y, rfl⟩ := hdrw
    exact ⟨x, y, rfl, by simp [schipLayer_eq_drw16_of_drw hb]⟩
  · simpa [schipLayer_eq_none_of_baseLayer hb hdrw] using hb

end Sys2Proof
end

section
/-! What one operation may change: each operation's frame, said once (10_state.md R31 to R49, R67). -/

namespace Sys2Proof.Machine

/-! ### Updates that write one field, or two, and nothing else -/

theorem State.skipIf_frame (s : State) (p : Bool) : s.skipIf p = { s with pc := (s.skipIf p).pc } := by
  cases p <;> rfl

theorem State.emitIf_frame (s : State) (p : Bool) (e : Event) : s.emitIf p e = { s with events := (s.emitIf p e).events } := by
  cases p <;> rfl

theorem State.bumpI_frame (s : State) (x : Nibble) : s.bumpI x = { s with I := (s.bumpI x).I } := by
  unfold State.bumpI; split <;> rfl

theorem forUpTo_setReg_frame (n : Nat) (x : Nat → Nibble) (v : Nat → State → Byte) (s : State) :
    forUpTo n (fun k t => t.setReg (x k) (v k t)) s =
      { s with V := (forUpTo n (fun k t => t.setReg (x k) (v k t)) s).V } := by
  induction n with
  | zero => rfl
  | succ n ih => rw [forUpTo_succ, ih]; rfl

theorem forUpTo_setFlagReg_frame (n : Nat) (k : Nat → BitVec 3) (v : Nat → State → Byte) (s : State) :
    forUpTo n (fun j t => t.setFlagReg (k j) (v j t)) s =
      { s with R := (forUpTo n (fun j t => t.setFlagReg (k j) (v j t)) s).R } := by
  induction n with
  | zero => rfl
  | succ n ih => rw [forUpTo_succ, ih]; rfl

/-! ### The flag registers' two operations (R309, R310) -/

theorem exec_ldRVx (x : Nibble) (s : State) :
    exec (.ldRVx x) s =
      if x.toNat > 7 then .fault (.flagRegisterIndex (encode (.ldRVx x)) s.fetchPc)
      else .next (forUpTo (x.toNat + 1) (fun k t => t.setFlagReg (BitVec.ofNat 3 k) (t.reg (BitVec.ofNat 4 k))) s) := rfl

theorem exec_ldVxR (x : Nibble) (s : State) :
    exec (.ldVxR x) s =
      if x.toNat > 7 then .fault (.flagRegisterIndex (encode (.ldVxR x)) s.fetchPc)
      else .next (forUpTo (x.toNat + 1) (fun k t => t.setReg (BitVec.ofNat 4 k) (t.flagReg (BitVec.ofNat 3 k))) s) := rfl

theorem exec_ldRVx_next {x : Nibble} {s t : State} (h : exec (.ldRVx x) s = .next t) :
    forUpTo (x.toNat + 1) (fun k t => t.setFlagReg (BitVec.ofNat 3 k) (t.reg (BitVec.ofNat 4 k))) s = t := by
  rw [exec_ldRVx] at h
  split at h
  · cases h
  · exact Host.Outcome.next.inj h

theorem exec_ldVxR_next {x : Nibble} {s t : State} (h : exec (.ldVxR x) s = .next t) :
    forUpTo (x.toNat + 1) (fun k t => t.setReg (BitVec.ofNat 4 k) (t.flagReg (BitVec.ofNat 3 k))) s = t := by
  rw [exec_ldVxR] at h
  split at h
  · cases h
  · exact Host.Outcome.next.inj h

/-! ### The frame of an operation -/

/-- The state `s` with the fields that operation `i` writes taken from `t`. -/
def framed (i : Instr) (s t : State) : State :=
  match i with
  | .cls | .scdown _ | .scup _ | .scright | .scleft => { s with planes := t.planes }
  | .drw _ _ _ | .drw16 _ _ => { s with planes := t.planes, V := t.V }
  | .low | .high => { s with planes := t.planes, highResolution := t.highResolution, events := t.events }
  | .plane _ => { s with planeMask := t.planeMask }
  | .ret => { s with sp := t.sp, pc := t.pc }
  | .call _ => { s with stack := t.stack, sp := t.sp, pc := t.pc }
  | .jp _ | .jpV0 _ | .seImm _ _ | .sneImm _ _ | .seReg _ _ | .sneReg _ _ => { s with pc := t.pc }
  | .skp _ | .sknp _ => { s with pc := t.pc, inputs := t.inputs }
  | .ldImm _ _ | .addImm _ _ | .ldReg _ _ | .or _ _ | .and _ _ | .xor _ _ | .addReg _ _ | .sub _ _ | .shr _ _
  | .subn _ _ | .shl _ _ | .ldVxDt _ | .ldVxR _ | .load _ _ => { s with V := t.V }
  | .rnd _ _ => { s with V := t.V, inputs := t.inputs }
  | .ldDtVx _ => { s with DT := t.DT }
  | .ldStVx _ => { s with ST := t.ST, events := t.events }
  | .ldVxK _ => { s with waitingForKey := t.waitingForKey, waitingForKeyRegister := t.waitingForKeyRegister }
  | .ldI _ | .ldF _ | .ldHf _ => { s with I := t.I }
  | .ldILong => { s with I := t.I, pc := t.pc }
  | .addI _ => { s with I := t.I, V := t.V }
  | .ldB _ | .save _ _ => { s with memory := t.memory }
  | .ldMemVx x => { s with memory := t.memory, I := (s.bumpI x).I }
  | .ldVxMem x => { s with V := t.V, I := (s.bumpI x).I }
  | .ldRVx _ => { s with R := t.R }
  | .exit => { s with finished := true }
  | .audio => { s with pattern := t.pattern }

/-- All that an operation that completes can change. The skips, the flag operations and the loops go through the frames of the
updates that they share; every other operation is one record update. -/
theorem exec_frame {i : Instr} {s t : State} (h : exec i s = .next t) : t = framed i s t := by
  cases i with
  | seImm | sneImm | seReg | sneReg => cases h; exact State.skipIf_frame ..
  | skp | sknp => cases h; rw [State.skipIf_frame]; rfl
  | addReg | sub | subn | shr | shl => cases h; exact flagOp_V ..
  | addI => cases h; exact addIndexOp_I_V ..
  | ldStVx x =>
    cases h
    rw [State.emitIf_frame, State.emitIf_frame { s with ST := s.reg x }]
    rfl
  | save => cases h; exact storeRegs_memory ..
  | load => cases h; exact loadRegs_V ..
  | ldMemVx => cases h; rw [storeRegs_memory, State.bumpI_frame]; simp [framed]
  | ldVxMem => cases h; rw [loadRegs_V, State.bumpI_frame]; simp [framed]
  | ldRVx => obtain rfl := exec_ldRVx_next h; exact forUpTo_setFlagReg_frame ..
  | ldVxR => obtain rfl := exec_ldVxR_next h; exact forUpTo_setReg_frame ..
  | _ => cases h; rfl

/-! ### One field of the frame at a time -/

/-- No operation changes the configuration (70_reset_and_hazards.md R551). -/
theorem exec_config {i : Instr} {s t : State} (h : exec i s = .next t) : t.config = s.config := by
  rw [exec_frame h]
  cases i <;> rfl

/-- `EXIT` sets `finished`, and every other operation leaves it (R42, R210). -/
theorem exec_finished {i : Instr} {s t : State} (h : exec i s = .next t) :
    t.finished = if i = .exit then true else s.finished := by
  rw [exec_frame h]
  cases i <;> rfl

/-- Every operation but `AUDIO` leaves the pattern (R43, R314). -/
theorem exec_pattern {i : Instr} {s t : State} (h : exec i s = .next t) (hi : i ≠ .audio) : t.pattern = s.pattern := by
  rw [exec_frame h]
  cases i with
  | audio => exact absurd rfl hi
  | _ => rfl

/-- Settles O26: each clause reads one field of the operation's frame. For the register save and load, `incI` decides `I`. -/
theorem eachFieldHasItsWriters : Obligations.EachFieldHasItsWriters := by
  intro i s t h
  rw [exec_frame h]
  cases i with
  | ldMemVx | ldVxMem => simp +contextual [framed, Instr.mnemonic, incI]
  | _ => simp [framed, Instr.mnemonic]

end Sys2Proof.Machine
end

section
/-! What one operation leaves of the general registers (10_state.md R31, R32). -/

namespace Sys2Proof.Machine

/-- A loop of register writes leaves the registers that it does not name. -/
theorem reg_forUpTo_setReg_of_ne (n : Nat) (x : Nat → Nibble) (v : Nat → State → Byte) (s : State) (r : Nibble)
    (hr : ∀ k < n, r ≠ x k) : (forUpTo n (fun k t => t.setReg (x k) (v k t)) s).reg r = s.reg r :=
  forUpTo_induction (fun _ t => t.reg r = s.reg r) n _ s rfl
    (fun k t hk ht => by rw [State.reg_setReg, if_neg (hr k hk), ht])

theorem reg_flagOp_of_ne {x s1 s2 r : Nibble} (flag result : Byte → Byte → Byte) (s : State) (hx : r ≠ x) (hf : r ≠ vf) :
    (flagOp x s1 s2 flag result s).reg r = s.reg r := by
  cases ho : s.config.flagWriteOrder with
  | flagFirst => simp [reg_flagOp_flagFirst, ho, hx, hf]
  | flagLast => simp [reg_flagOp_flagLast, ho, hx, hf]

theorem reg_addIndexOp_of_ne (x : Nibble) {r : Nibble} (s : State) (hf : r ≠ vf) : (addIndexOp x s).reg r = s.reg r := by
  unfold addIndexOp
  split
  · exact (State.reg_setReg ..).trans (if_neg hf)
  · exact (State.reg_setReg ..).trans (if_neg hf)

theorem reg_drawSprite_of_ne (x y : Nibble) (width height : Nat) {r : Nibble} (s : State) (hf : r ≠ vf) :
    (drawSprite x y width height s).reg r = s.reg r :=
  (State.reg_setReg ..).trans (if_neg hf)

theorem toNat_rangeRegister {x y : Nibble} {k : Nat} (hk : k ≤ rangeDistance x y) :
    (rangeRegister x y k).toNat = if x.toNat ≤ y.toNat then x.toNat + k else x.toNat - k := by
  have hx := x.isLt
  have hy := y.isLt
  unfold rangeDistance at hk
  unfold rangeRegister
  split <;> rename_i hxy <;> simp only [hxy, if_true, if_false] at hk
  · rw [BitVec.toNat_add, BitVec.toNat_ofNat]; omega
  · rw [BitVec.toNat_sub, BitVec.toNat_ofNat]; omega

/-- The registers of a range lie between its ends. -/
theorem rangeRegister_mem {x y : Nibble} {k : Nat} (hk : k ≤ rangeDistance x y) :
    min x.toNat y.toNat ≤ (rangeRegister x y k).toNat ∧ (rangeRegister x y k).toNat ≤ max x.toNat y.toNat := by
  rw [toNat_rangeRegister hk]
  unfold rangeDistance at hk
  split at hk <;> simp only [*, if_true, if_false] <;> omega

/-- A register above `V[x]` is none of `V[0]` to `V[x]`. -/
theorem ne_ofNat_of_lt {r x : Nibble} {k : Nat} (hk : k < x.toNat + 1) (hr : x.toNat < r.toNat) : r ≠ BitVec.ofNat 4 k := by
  rintro rfl
  rw [BitVec.toNat_ofNat] at hr
  omega

/-- Settles O25: each group of operations writes through one shared update, which leaves every other register; the operations
that are left have no register in their frame. -/
theorem onlyDestinationsAndVFChange : Obligations.OnlyDestinationsAndVFChange := by
  intro i s t r h hd hf
  have hvf (hm : i.mnemonic ∈ ["ADD_REG", "SUB", "SUBN", "SHR", "SHL", "ADD_I", "DRW", "DRW16"]) : r ≠ vf :=
    fun hr => hf ⟨hr, hm⟩
  cases i with
  | ldImm | addImm | ldReg | or | and | xor | rnd | ldVxDt => cases h; exact (State.reg_setReg ..).trans (if_neg hd)
  | addReg | sub | subn | shr | shl => cases h; exact reg_flagOp_of_ne _ _ s hd (hvf (by simp [Instr.mnemonic]))
  | addI => cases h; exact reg_addIndexOp_of_ne _ s (hvf (by simp [Instr.mnemonic]))
  | drw | drw16 => cases h; exact reg_drawSprite_of_ne _ _ _ _ s (hvf (by simp [Instr.mnemonic]))
  | ldVxMem =>
    cases h
    rw [State.reg_congr (State.bumpI_V ..)]
    exact reg_forUpTo_setReg_of_ne _ _ _ s r (fun k hk => ne_ofNat_of_lt hk (Nat.lt_of_not_le hd))
  | ldVxR =>
    obtain rfl := exec_ldVxR_next h
    exact reg_forUpTo_setReg_of_ne _ _ _ s r (fun k hk => ne_ofNat_of_lt hk (Nat.lt_of_not_le hd))
  | load =>
    cases h
    refine reg_forUpTo_setReg_of_ne _ _ _ s r (fun k hk hr => hd ?_)
    subst hr
    exact rangeRegister_mem (Nat.le_of_lt_succ hk)
  | _ => rw [exec_frame h]; rfl

end Sys2Proof.Machine
end

section
/-! The step's equation in each of its four cases (30_encoding.md R110). -/

namespace Sys2Proof.Machine

theorem step_of_waiting {s : State} (hw : s.waitingForKey = true) : step s = .next (resolveKeyWait s) := by
  simp [step, hw]

theorem step_of_misaligned {s : State} (hw : s.waitingForKey = false) (hm : s.fetchMisaligned = true) :
    step s = .fault (.misalignedInstructionFetch s.pc) := by
  simp [step, hw, hm, raise]

theorem step_of_decoded {s : State} {i : Instr} (hw : s.waitingForKey = false) (hm : s.fetchMisaligned = false)
    (hd : decode s.config.variant s.fetchWord = .ok i) : step s = exec i s.advancePc := by
  simp [step, hw, hm, hd]

theorem step_of_rejected {s : State} {e : DecodeError} (hw : s.waitingForKey = false) (hm : s.fetchMisaligned = false)
    (hd : decode s.config.variant s.fetchWord = .error e) : step s = .fault (decodeFault e s.fetchWord s.pc) := by
  simp [step, hw, hm, hd, raise]

end Sys2Proof.Machine
end

section
/-! The two fields that no operation reads, `finished` and the audio pattern (10_state.md R42, R43): every step runs the same
with other values in them. -/

namespace Sys2Proof.Machine

/-- The outcome with its next state, if any, put through `g`. -/
def mapNext (g : State → State) : Result → Result
  | .next t => .next (g t)
  | .fault r => .fault r
  | .refused r => .refused r

/-- The state with other values in the two fields that no step reads. -/
def State.withUnread (f : Bool) (p : Vector Byte 16) (s : State) : State := { s with finished := f, pattern := p }

/-! ### The shared operations -/

theorem State.skipIf_withUnread (f : Bool) (p : Vector Byte 16) (s : State) (q : Bool) :
    (s.withUnread f p).skipIf q = (s.skipIf q).withUnread f p := by
  cases q <;> rfl

theorem State.emitIf_withUnread (f : Bool) (p : Vector Byte 16) (s : State) (q : Bool) (e : Event) :
    (s.withUnread f p).emitIf q e = (s.emitIf q e).withUnread f p := by
  cases q <;> rfl

theorem State.bumpI_withUnread (f : Bool) (p : Vector Byte 16) (s : State) (x : Nibble) :
    (s.withUnread f p).bumpI x = (s.bumpI x).withUnread f p := by
  have hc : (s.withUnread f p).config = s.config := rfl
  unfold State.bumpI
  rw [hc]
  split <;> rfl

theorem flagOp_withUnread (f : Bool) (p : Vector Byte 16) (x s1 s2 : Nibble) (flag result : Byte → Byte → Byte) (s : State) :
    flagOp x s1 s2 flag result (s.withUnread f p) = (flagOp x s1 s2 flag result s).withUnread f p := by
  have hc : (s.withUnread f p).config = s.config := rfl
  unfold flagOp
  rw [hc]
  split <;> rfl

theorem addIndexOp_withUnread (f : Bool) (p : Vector Byte 16) (x : Nibble) (s : State) :
    addIndexOp x (s.withUnread f p) = (addIndexOp x s).withUnread f p := by
  have hc : (s.withUnread f p).config = s.config := rfl
  unfold addIndexOp
  rw [hc]
  split <;> rfl

theorem forUpTo_withUnread (f : Bool) (p : Vector Byte 16) (n : Nat) (g : Nat → State → State) (s : State)
    (hg : ∀ k t, g k (t.withUnread f p) = (g k t).withUnread f p) :
    forUpTo n g (s.withUnread f p) = (forUpTo n g s).withUnread f p :=
  forUpTo_rel (fun a b => a = b.withUnread f p) n g g _ s rfl (fun k _ b _ hab => hab ▸ hg k b)

theorem storeRegs_withUnread (f : Bool) (p : Vector Byte 16) (n : Nat) (reg : Nat → Nibble) (s : State) :
    storeRegs n reg (s.withUnread f p) = (storeRegs n reg s).withUnread f p :=
  forUpTo_withUnread f p n _ s (fun _ _ => rfl)

theorem loadRegs_withUnread (f : Bool) (p : Vector Byte 16) (n : Nat) (reg : Nat → Nibble) (s : State) :
    loadRegs n reg (s.withUnread f p) = (loadRegs n reg s).withUnread f p :=
  forUpTo_withUnread f p n _ s (fun _ _ => rfl)

/-! ### Operations and steps -/

/-- Only `EXIT` and `AUDIO` touch the two fields, and they read neither. -/
theorem exec_withUnread (i : Instr) (f : Bool) (p : Vector Byte 16) (s : State) :
    exec i (s.withUnread f p) =
      mapNext (fun t => t.withUnread (if i = .exit then true else f) (if i = .audio then t.pattern else p)) (exec i s) := by
  cases i with
  | seImm | sneImm | seReg | sneReg => exact congrArg _ (State.skipIf_withUnread f p s _)
  | skp | sknp => exact congrArg _ (State.skipIf_withUnread f p s.takeKeyAnswer _)
  | addReg | sub | subn | shr | shl => exact congrArg _ (flagOp_withUnread f p ..)
  | addI => exact congrArg _ (addIndexOp_withUnread f p ..)
  | ldStVx x =>
    refine congrArg _ (Eq.trans (congrArg (State.emitIf · _ _) ?_) (State.emitIf_withUnread f p ..))
    exact State.emitIf_withUnread f p { s with ST := s.reg x } ..
  | save => exact congrArg _ (storeRegs_withUnread f p ..)
  | load => exact congrArg _ (loadRegs_withUnread f p ..)
  | ldMemVx =>
    exact congrArg _ ((congrArg (State.bumpI · _) (storeRegs_withUnread f p ..)).trans (State.bumpI_withUnread f p ..))
  | ldVxMem =>
    exact congrArg _ ((congrArg (State.bumpI · _) (loadRegs_withUnread f p ..)).trans (State.bumpI_withUnread f p ..))
  | ldRVx x =>
    rw [exec_ldRVx, exec_ldRVx]
    split
    · rfl
    · exact congrArg _ (forUpTo_withUnread f p _ _ s (fun _ _ => rfl))
  | ldVxR x =>
    rw [exec_ldVxR, exec_ldVxR]
    split
    · rfl
    · exact congrArg _ (forUpTo_withUnread f p _ _ s (fun _ _ => rfl))
  | _ => rfl

theorem resolveKeyWait_withUnread (f : Bool) (p : Vector Byte 16) (s : State) :
    resolveKeyWait (s.withUnread f p) = (resolveKeyWait s).withUnread f p := by
  have hk : (s.withUnread f p).keyPoll = s.keyPoll := rfl
  unfold resolveKeyWait
  rw [hk]
  split <;> rfl

/-- No operation is refused. -/
theorem exec_next_or_fault (i : Instr) (s : State) : (∃ t, exec i s = .next t) ∨ ∃ r, exec i s = .fault r := by
  cases i with
  | ldRVx x =>
    rw [exec_ldRVx]
    split
    · exact .inr ⟨_, rfl⟩
    · exact .inl ⟨_, rfl⟩
  | ldVxR x =>
    rw [exec_ldVxR]
    split
    · exact .inr ⟨_, rfl⟩
    · exact .inl ⟨_, rfl⟩
  | _ => exact .inl ⟨_, rfl⟩

/-- A step with other values in the two fields ends the same way, and a field that had the same value still has. -/
theorem step_withUnread (f : Bool) (p : Vector Byte 16) (s : State) :
    (∃ t f' p', step s = .next t ∧ step (s.withUnread f p) = .next (t.withUnread f' p') ∧
        (f = s.finished → f' = t.finished) ∧ (p = s.pattern → p' = t.pattern)) ∨
      ∃ r, step s = .fault r ∧ step (s.withUnread f p) = .fault r := by
  obtain ⟨hw, h⟩ | ⟨hw, hm, h⟩ | ⟨i, hw, hm, hd, h⟩ | ⟨e, hw, hm, hd, h⟩ := step_cases s
  · rw [h, step_of_waiting (s := s.withUnread f p) hw, resolveKeyWait_withUnread]
    exact .inl ⟨_, f, p, rfl, rfl, fun hf => by rw [hf, resolveKeyWait_eq], fun hp => by rw [hp, resolveKeyWait_eq]⟩
  · exact .inr ⟨_, h, step_of_misaligned (s := s.withUnread f p) hw hm⟩
  · have hu : step (s.withUnread f p) = exec i (s.advancePc.withUnread f p) := step_of_decoded hw hm hd
    rw [h, hu, exec_withUnread]
    obtain ⟨t, ht⟩ | ⟨r, hr⟩ := exec_next_or_fault i s.advancePc
    · rw [ht]
      refine .inl ⟨t, _, _, rfl, rfl, fun hf => ?_, fun hp => ?_⟩
      · rw [exec_finished ht, hf, State.advancePc_finished]
      · split_ifs with hi
        · rfl
        · rw [exec_pattern ht hi, hp, State.advancePc_pattern]
    · rw [hr]
      exact .inr ⟨r, rfl, rfl⟩
  · exact .inr ⟨_, h, step_of_rejected (s := s.withUnread f p) hw hm hd⟩

/-- Settles O14: `exec_finished` is its first clause, a step with another `finished` and the same pattern its second. -/
theorem finishedIsWrittenByExitOnlyAndNeverRead : Obligations.FinishedIsWrittenByExitOnlyAndNeverRead := by
  refine ⟨fun i s t => exec_finished, fun s f => ?_⟩
  obtain ⟨t, f', p', ht, hu, -, hp⟩ | ⟨r, ht, hu⟩ := step_withUnread f s.pattern s
  · have hu : step { s with finished := f } = .next (t.withUnread f' p') := hu
    rw [ht, hu]
    exact ⟨f', by rw [hp rfl]; rfl⟩
  · have hu : step { s with finished := f } = .fault r := hu
    rw [ht, hu]

/-- Settles O15: a step with another pattern and the same `finished`. -/
theorem patternIsNeverRead : Obligations.PatternIsNeverRead := by
  intro s p
  obtain ⟨t, f', p', ht, hu, hf, -⟩ | ⟨r, ht, hu⟩ := step_withUnread s.finished p s
  · have hu : step { s with pattern := p } = .next (t.withUnread f' p') := hu
    rw [ht, hu]
    exact ⟨p', by rw [hf rfl]; rfl⟩
  · have hu : step { s with pattern := p } = .fault r := hu
    rw [ht, hu]

end Sys2Proof.Machine
end

section
/-! The key-wait: how it is entered and left, and what a step in it reads (10_state.md R45). -/

namespace Sys2Proof.Machine

/-- Only `LD Vx,K` ends in the key-wait (R355). -/
theorem exec_waitingForKey {i : Instr} {s t : State} (h : exec i s = .next t) (hs : s.waitingForKey = false) :
    t.waitingForKey = true ↔ ∃ x, i = .ldVxK x := by
  cases i with
  | ldVxK x => cases h; exact ⟨fun _ => ⟨x, rfl⟩, fun _ => rfl⟩
  | _ => rw [exec_frame h]; simp [framed, hs]

theorem resolveKeyWait_waitingForKey {s : State} (hs : s.waitingForKey = true) :
    (resolveKeyWait s).waitingForKey = !s.keyPoll.pressed := by
  unfold resolveKeyWait
  split <;> simp [*]

theorem resolveKeyWait_inputs (s : State) : (resolveKeyWait s).inputs = s.takeKeyPoll.inputs := by
  unfold resolveKeyWait; split <;> rfl

/-- Memory and `pc` have no part in the resolution of a key-wait. -/
theorem resolveKeyWait_memory_pc (s : State) (m : List Host.Cell) (a : Word) :
    resolveKeyWait { s with memory := m, pc := a } = { resolveKeyWait s with memory := m, pc := a } := by
  have hk : State.keyPoll { s with memory := m, pc := a } = s.keyPoll := rfl
  unfold resolveKeyWait
  rw [hk]
  split <;> rfl

/-- Settles O13: outside the wait only `LD Vx,K` can enter it; inside, the step is `resolveKeyWait`, which reads neither memory
nor `pc`. -/
theorem keyWaitIsEnteredOnlyByLdVxK : Obligations.KeyWaitIsEnteredOnlyByLdVxK := by
  refine ⟨fun _ => rfl, fun s t h => ⟨fun hw => ?_, fun hw => ?_⟩⟩
  · obtain ⟨hw', -⟩ | ⟨-, -, hf⟩ | ⟨i, -, -, hd, he⟩ | ⟨e, -, -, -, hf⟩ := step_cases s
    · simp [hw] at hw'
    · simp [hf] at h
    · rw [exec_waitingForKey (he.symm.trans h) hw]
      exact exists_congr fun x => ⟨fun hi => hi ▸ hd, fun hx => Except.ok.inj (hd.symm.trans hx)⟩
    · simp [hf] at h
  · obtain rfl : resolveKeyWait s = t := Host.Outcome.next.inj ((step_of_waiting hw).symm.trans h)
    refine ⟨by simp [resolveKeyWait_waitingForKey hw], resolveKeyWait_inputs s, fun m a => ?_⟩
    rw [← resolveKeyWait_memory_pc]
    exact step_of_waiting hw

end Sys2Proof.Machine
end

section
/-! Initialisation: the reset values and the invariant's base case (10_state.md R52, 70_reset_and_hazards.md R550 to R552). -/

namespace Sys2Proof.Machine

/-- A font placement is legal (R552). -/
theorem configWf_iff (c : Config) :
    configWf c = true ↔
      c.lowFont.length = 80 ∧ c.highFont.length = 160 ∧ c.lowFontBase + 80 ≤ 0x200 ∧ c.highFontBase + 160 ≤ 0x200 ∧
        (c.lowFontBase + 80 ≤ c.highFontBase ∨ c.highFontBase + 160 ≤ c.lowFontBase) := by
  simp only [configWf, Bool.and_eq_true, Bool.or_eq_true, beq_iff_eq, decide_eq_true_eq, and_assoc]
  rfl

/-- The program area lies inside the space of every variant (20_memory.md R80, R89). -/
theorem loadAddress_lt_memorySize (c : Config) : 0x200 < memorySize c := by
  unfold memorySize; split <;> decide

/-- An address of the space is its own byte under either wrap (20_memory.md R82). -/
theorem addr_eq_self {c : Config} {a : Nat} (h : a < memorySize c) : addr c a = a := by
  unfold addr
  split
  · exact Nat.mod_eq_of_lt h
  · omega

/-- After `Initialise()` every byte of the space is its reset byte. -/
theorem readByte_initialiseCall {s : State} {a : Nat} (h : a < memorySize s.config) :
    (initialiseCall s).readByte a = resetByte s.config a :=
  congrArg (resetByte s.config) (addr_eq_self h)

theorem resetByte_lowFont {c : Config} (hc : configWf c = true) {k : Nat} (hk : k < 80) :
    some (resetByte c (c.lowFontBase + k)) = c.lowFont[k]? := by
  obtain ⟨hlen, -, -, -, hdisj⟩ := (configWf_iff c).1 hc
  unfold resetByte highFontLength lowFontLength
  rw [if_neg (by omega), if_pos (by omega)]
  simp [hlen, hk]

theorem resetByte_highFont {c : Config} (hc : configWf c = true) {k : Nat} (hk : k < 160) :
    some (resetByte c (c.highFontBase + k)) = c.highFont[k]? := by
  obtain ⟨-, hlen, -, -, -⟩ := (configWf_iff c).1 hc
  unfold resetByte highFontLength
  rw [if_pos (by omega)]
  simp [hlen, hk]

theorem resetByte_outside {c : Config} {a : Nat} (hl : ¬ (c.lowFontBase ≤ a ∧ a < c.lowFontBase + 80))
    (hh : ¬ (c.highFontBase ≤ a ∧ a < c.highFontBase + 160)) : resetByte c a = 0 := by
  unfold resetByte highFontLength lowFontLength
  rw [if_neg hh, if_neg hl]

@[simp] theorem Plane.cell_zero (i : Nat) : Plane.cell 0#8192 i = false := BitVec.getLsbD_zero

/-- Settles O20: the fields are read off `State.initialise`; memory is the reset byte of each address, in a font or outside. -/
theorem initialiseGivesTheResetValues : Obligations.InitialiseGivesTheResetValues := by
  refine ⟨fun s hc => ⟨initialiseCall s, rfl, rfl, rfl, rfl, fun r => ?_, rfl, rfl, fun k => ?_, rfl, rfl, rfl, fun k => ?_,
    rfl, rfl, rfl, fun k => ?_, ?_, fun p i => ?_, rfl, rfl, fun k hk => ?_, fun k hk => ?_, fun a ha hl hh => ?_⟩,
    fun c => ⟨rfl, rfl, rfl⟩⟩
  · simp [Claims.reg, State.reg, initialiseCall, State.initialise]
  · simp [State.stackEntry, initialiseCall, State.initialise]
  · simp [State.flagReg, initialiseCall, State.initialise]
  · simp [initialiseCall, State.initialise]
  · simp [initialiseCall, State.initialise, numPlanes]
    cases s.config.variant <;> rfl
  · by_cases hp : p < numPlanes s.config <;> simp [State.plane, initialiseCall, State.initialise, hp]
  · obtain ⟨-, -, hlow, -, -⟩ := (configWf_iff _).1 hc
    rw [readByte_initialiseCall (by have := loadAddress_lt_memorySize s.config; omega)]
    exact resetByte_lowFont hc hk
  · obtain ⟨-, -, -, hhigh, -⟩ := (configWf_iff _).1 hc
    rw [readByte_initialiseCall (by have := loadAddress_lt_memorySize s.config; omega)]
    exact resetByte_highFont hc hk
  · rw [readByte_initialiseCall ha]
    exact resetByte_outside hl hh

theorem initialise_inv (c : Config) : Inv (State.initialise c) where
  memory_wf := State.initialise_memoryWf c
  plane_count := List.length_replicate
  plane_cells := fun pl hpl i _ => by rw [List.eq_of_mem_replicate hpl]; exact Plane.cell_zero i
  chip8_low := fun _ => rfl
  mask_one := fun _ => rfl
  chip8_flags := fun _ => rfl
  pattern_zero := fun _ => rfl

/-- Settles O19: the base case at every configuration, the one of `State.reset` among them. -/
theorem resetMeetsTheInvariant : Obligations.ResetMeetsTheInvariant :=
  ⟨initialise_inv, initialise_inv resetConfig⟩

end Sys2Proof.Machine
end

section
/-! The invariant is kept by every step (10_state.md R39, R43, R47 to R50, R53; 20_memory.md R80). -/

namespace Sys2Proof.Machine

/-! ### Planes with no lit cell beyond the screen (R50) -/

/-- No cell from cell `n` on is lit. -/
def Plane.BlankFrom (n : Nat) (pl : Plane) : Prop := ∀ i, n ≤ i → Plane.cell pl i = false

theorem Plane.blankFrom_zero (n : Nat) : Plane.BlankFrom n 0 := fun i _ => Plane.cell_zero i

theorem Plane.blankFrom_copyRow {w h src dst : Nat} {pl : Plane} (hsz : h * w ≤ 8192) (hd : dst < h) (hs : src < h)
    (hpl : Plane.BlankFrom (h * w) pl) : Plane.BlankFrom (h * w) (Plane.copyRow w src dst pl) := by
  intro i hi
  have hrow : dst * w + w ≤ h * w := by rw [← Nat.succ_mul]; exact Nat.mul_le_mul_right w hd
  rw [Plane.cell_copyRow _ _ _ _ _ (row_mul_le hsz hd) (row_mul_le hsz hs), if_neg (by omega)]
  exact hpl i hi

theorem Plane.blankFrom_clearRow {n w r : Nat} {pl : Plane} (hpl : Plane.BlankFrom n pl) :
    Plane.BlankFrom n (Plane.clearRow w r pl) := by
  intro i hi
  rw [Plane.cell_clearRow, hpl i hi, ite_self]

theorem Plane.blankFrom_copyColumn {w h src dst : Nat} {pl : Plane} (hsz : h * w ≤ 8192) (hd : dst < w) (hs : src < w)
    (hpl : Plane.BlankFrom (h * w) pl) : Plane.BlankFrom (h * w) (Plane.copyColumn w h src dst pl) := by
  intro i hi
  rw [Plane.cell_copyColumn _ _ _ _ _ _ hsz hd hs, if_neg (by omega)]
  exact hpl i hi

theorem Plane.blankFrom_clearColumn {n w h c : Nat} {pl : Plane} (hc : c < w) (hpl : Plane.BlankFrom n pl) :
    Plane.BlankFrom n (Plane.clearColumn w h c pl) := by
  intro i hi
  rw [Plane.cell_clearColumn _ _ _ _ _ hc, hpl i hi, ite_self]

theorem Plane.blankFrom_forUpTo {n m : Nat} {f : Nat → Plane → Plane} {pl : Plane} (hpl : Plane.BlankFrom n pl)
    (hf : ∀ k q, k < m → Plane.BlankFrom n q → Plane.BlankFrom n (f k q)) : Plane.BlankFrom n (forUpTo m f pl) :=
  forUpTo_induction (fun _ => Plane.BlankFrom n) m f pl hpl hf

section Scrolls

variable {w h : Nat} {pl : Plane} (hsz : h * w ≤ 8192) (hpl : Plane.BlankFrom (h * w) pl)
include hsz hpl

theorem Plane.blankFrom_scrollDown (n : Nat) : Plane.BlankFrom (h * w) (Plane.scrollDown w h n pl) :=
  Plane.blankFrom_forUpTo
    (Plane.blankFrom_forUpTo hpl fun _ _ _ => Plane.blankFrom_copyRow hsz (by omega) (by omega))
    fun _ _ _ => Plane.blankFrom_clearRow

theorem Plane.blankFrom_scrollUp (n : Nat) : Plane.BlankFrom (h * w) (Plane.scrollUp w h n pl) :=
  Plane.blankFrom_forUpTo
    (Plane.blankFrom_forUpTo hpl fun _ _ _ => Plane.blankFrom_copyRow hsz (by omega) (by omega))
    fun _ _ _ => Plane.blankFrom_clearRow

theorem Plane.blankFrom_scrollRight4 (hw : 4 ≤ w) : Plane.BlankFrom (h * w) (Plane.scrollRight4 w h pl) :=
  Plane.blankFrom_forUpTo
    (Plane.blankFrom_forUpTo hpl fun _ _ _ => Plane.blankFrom_copyColumn hsz (by omega) (by omega))
    fun _ _ _ => Plane.blankFrom_clearColumn (by omega)

theorem Plane.blankFrom_scrollLeft4 (hw : 4 ≤ w) : Plane.BlankFrom (h * w) (Plane.scrollLeft4 w h pl) :=
  Plane.blankFrom_forUpTo
    (Plane.blankFrom_forUpTo hpl fun _ _ _ => Plane.blankFrom_copyColumn hsz (by omega) (by omega))
    fun _ _ _ => Plane.blankFrom_clearColumn (by omega)

end Scrolls

/-- A sprite puts pixels on the screen only (R406, R407). -/
theorem Plane.blankFrom_drawPlane (s : State) (a dx dy width height : Nat) {pl : Plane}
    (hpl : Plane.BlankFrom (s.height * s.width) pl) :
    Plane.BlankFrom (s.height * s.width) (drawPlane s a dx dy width height pl).plane := by
  intro i hi
  have hno : ¬ ∃ r, r < height ∧ ∃ c, c < width ∧
      puts s a (drawOrigin s.config dx s.width) (drawOrigin s.config dy s.height) width r c i := by
    rintro ⟨r, -, c, -, -, hY, hX, rfl⟩
    have := pixel_lt hX hY
    omega
  have hcell := (drawPlane_spec s a dx dy width height pl _ _ rfl rfl).1 i
  simpa [hpl i hi, hno] using hcell

/-! ### The screen part of the invariant -/

/-- `NUM_PLANES` planes, blank beyond the cells of the resolution (R47, R50). -/
def ScreenWf (s : State) : Prop :=
  s.planes.length = numPlanes s.config ∧ ∀ pl ∈ s.planes, Plane.BlankFrom (s.height * s.width) pl

theorem State.four_le_width (s : State) : 4 ≤ s.width := by
  unfold State.width; split <;> decide

theorem ScreenWf.mapSelected {s : State} (hs : ScreenWf s) {f : Plane → Plane}
    (hf : ∀ pl, Plane.BlankFrom (s.height * s.width) pl → Plane.BlankFrom (s.height * s.width) (f pl)) :
    ScreenWf (s.mapSelected f) := by
  refine ⟨(s.mapSelected_length f).trans hs.1, fun pl hpl => ?_⟩
  obtain ⟨p, hp, rfl⟩ := List.mem_mapIdx.1 hpl
  split
  · exact hf _ (hs.2 _ (List.getElem_mem hp))
  · exact hs.2 _ (List.getElem_mem hp)

theorem ScreenWf.draw {s : State} (hs : ScreenWf s) (a dx dy width height : Nat) :
    ScreenWf { s with planes := (draw s a dx dy width height).planes } := by
  refine forUpTo_induction (fun _ (g : Drawing) => ScreenWf { s with planes := g.planes }) _ _ _ hs fun p g _ hg => ?_
  obtain ⟨hlen, hblank⟩ := hg
  show ScreenWf { s with planes := (ite _ _ g).planes }
  split
  · refine ⟨(List.length_set ..).trans hlen, fun pl hpl => ?_⟩
    obtain hpl | rfl := List.mem_or_eq_of_mem_set hpl
    · exact hblank pl hpl
    · refine Plane.blankFrom_drawPlane s _ _ _ _ _ ?_
      obtain hp | hp := Nat.lt_or_ge p g.planes.length
      · rw [List.getD_eq_getElem _ _ hp]
        exact hblank _ (List.getElem_mem hp)
      · rw [List.getD_eq_default _ _ hp]
        exact Plane.blankFrom_zero _
  · exact ⟨hlen, hblank⟩

/-- A plane keeps the cells that both screens have (R419). -/
theorem State.planes_setResolution (s : State) (hi : Bool) :
    (s.setResolution hi).planes = s.planes.map (Plane.keepPrefix
      (min (s.height * s.width) ((s.setResolution hi).height * (s.setResolution hi).width))) := by
  rw [Nat.mul_comm s.height, Nat.mul_comm (s.setResolution hi).height]
  rfl

theorem ScreenWf.setResolution {s : State} (hs : ScreenWf s) (hi : Bool) : ScreenWf (s.setResolution hi) := by
  refine ⟨(List.length_map ..).trans hs.1, fun pl hpl i hi' => ?_⟩
  rw [State.planes_setResolution] at hpl
  obtain ⟨q, -, rfl⟩ := List.mem_map.1 hpl
  rw [Plane.cell_keepPrefix, decide_eq_false (by omega), Bool.and_false]

/-- Every operation that completes keeps the screen part of the invariant. -/
theorem exec_screenWf {i : Instr} {s t : State} (hs : ScreenWf s) (h : exec i s = .next t) : ScreenWf t := by
  have hsz := s.cells_le
  have hw := s.four_le_width
  cases i with
  | cls => cases h; exact hs.mapSelected fun _ _ => Plane.blankFrom_zero _
  | drw | drw16 => cases h; exact hs.draw ..
  | scdown => cases h; exact hs.mapSelected fun _ hpl => Plane.blankFrom_scrollDown hsz hpl _
  | scup => cases h; exact hs.mapSelected fun _ hpl => Plane.blankFrom_scrollUp hsz hpl _
  | scright => cases h; exact hs.mapSelected fun _ hpl => Plane.blankFrom_scrollRight4 hsz hpl hw
  | scleft => cases h; exact hs.mapSelected fun _ hpl => Plane.blankFrom_scrollLeft4 hsz hpl hw
  | low | high => cases h; exact hs.setResolution _
  | _ => rw [exec_frame h]; exact hs

/-! ### Memory -/

/-- Every operation that completes keeps memory in canonical form (log 14). -/
theorem exec_memoryWf {i : Instr} {s t : State} (hs : s.memoryWf) (h : exec i s = .next t) : t.memoryWf := by
  cases i with
  | ldB => cases h; exact State.writeByte_wf _ _ (State.writeByte_wf _ _ (State.writeByte_wf _ _ hs))
  | save => cases h; exact storeRegs_wf _ _ hs
  | ldMemVx =>
    cases h
    rw [State.bumpI_frame]
    exact storeRegs_wf _ _ hs
  | _ => rw [exec_frame h]; exact hs

/-! ### What a variant's decoder gives -/

theorem baseLayer_layer {w : Word} {i : Instr} (h : baseLayer w = some i) : i.layer = .base := by
  have harith {x y n : Nibble} (h : baseArithmetic x y n = some i) : i.layer = .base := by
    unfold baseArithmetic at h
    split at h <;> cases h <;> rfl
  have hmisc {x : Nibble} {nn : Byte} (h : baseMisc x nn = some i) : i.layer = .base := by
    unfold baseMisc at h
    split at h <;> cases h <;> rfl
  unfold baseLayer at h
  split at h
  case h_9 => exact harith h
  case h_16 => exact hmisc h
  case h_1 | h_6 | h_10 | h_15 => split_ifs at h <;> cases h <;> rfl
  all_goals cases h <;> rfl

theorem schipLayer_layer {w : Word} {i : Instr} (h : schipLayer w = some i) : i.layer = .schip := by
  obtain ⟨-, -, rfl⟩ | ⟨-, rfl⟩ | ⟨-, rfl⟩ | ⟨-, rfl⟩ | ⟨-, rfl⟩ | ⟨-, rfl⟩ | ⟨-, -, rfl⟩ | ⟨-, -, rfl⟩ | ⟨-, -, rfl⟩ |
    ⟨-, -, rfl⟩ := schipLayer_cases h
  all_goals rfl

theorem xoLayer_layer {w : Word} {i : Instr} (h : xoLayer w = some i) : i.layer = .xo := by
  obtain ⟨-, -, rfl⟩ | ⟨-, -, rfl⟩ | ⟨-, -, rfl⟩ | ⟨-, rfl⟩ | ⟨-, -, rfl⟩ | ⟨-, rfl⟩ := xoLayer_cases h
  all_goals rfl

/-- A variant decodes operations of its active layers only (30_encoding.md R120, R125). -/
theorem layer_activeIn_of_decode {v : Variant} {w : Word} {i : Instr} (h : decode v w = .ok i) :
    i.layer.activeIn v = true := by
  have ha := decode_eq_ok_iff.1 h
  cases v with
  | chip8 => rw [baseLayer_layer ha]; rfl
  | schip =>
    obtain hs | ⟨-, hb⟩ := Option.or_eq_some_iff.1 ha
    · rw [schipLayer_layer hs]; rfl
    · rw [baseLayer_layer hb]; rfl
  | xochip => cases i.layer <;> rfl

/-! ### The step -/

/-- The invariant, grouped by what decides its clauses: memory, the screen, CHIP8, and every variant but XOCHIP. -/
theorem inv_iff (s : State) :
    Inv s ↔ s.memoryWf ∧ ScreenWf s ∧ (s.config.variant = .chip8 → s.highResolution = false ∧ s.R = Vector.replicate 8 0) ∧
      (s.config.variant ≠ .xochip → s.planeMask = 1 ∧ s.pattern = Vector.replicate 16 0) := by
  have hcells : cellCount s = s.height * s.width := Nat.mul_comm ..
  constructor
  · rintro ⟨hm, hn, hb, hlow, hmask, hR, hpat⟩
    exact ⟨hm, ⟨hn, hcells ▸ hb⟩, fun h => ⟨hlow h, hR h⟩, fun h => ⟨hmask h, hpat h⟩⟩
  · rintro ⟨hm, ⟨hn, hb⟩, hchip8, hxo⟩
    exact ⟨hm, hn, hcells ▸ hb, fun h => (hchip8 h).1, fun h => (hxo h).1, fun h => (hchip8 h).2, fun h => (hxo h).2⟩

/-- CHIP8's operations leave the resolution and the flag registers. -/
theorem exec_of_not_schip {i : Instr} {s t : State} (h : exec i s = .next t) (hi : i.layer.activeIn .chip8 = true) :
    t.highResolution = s.highResolution ∧ t.R = s.R := by
  rw [exec_frame h]
  cases i with
  | low | high | ldRVx => cases hi
  | _ => exact ⟨rfl, rfl⟩

/-- The operations of CHIP8 and SCHIP leave the plane mask and the pattern. -/
theorem exec_of_not_xo {i : Instr} {s t : State} (h : exec i s = .next t) (hi : i.layer.activeIn .schip = true) :
    t.planeMask = s.planeMask ∧ t.pattern = s.pattern := by
  rw [exec_frame h]
  cases i with
  | plane | audio => cases hi
  | _ => exact ⟨rfl, rfl⟩

/-- Every operation of the variant that completes keeps the invariant. -/
theorem exec_inv {i : Instr} {s t : State} (hs : Inv s) (hi : i.layer.activeIn s.config.variant = true)
    (h : exec i s = .next t) : Inv t := by
  obtain ⟨hm, hscreen, hchip8, hxo⟩ := (inv_iff s).1 hs
  rw [inv_iff, exec_config h]
  refine ⟨exec_memoryWf hm h, exec_screenWf hscreen h, fun hv => ?_, fun hv => ?_⟩
  · obtain ⟨hhi, hR⟩ := exec_of_not_schip h (hv ▸ hi)
    rw [hhi, hR]
    exact hchip8 hv
  · have hi' : i.layer.activeIn .schip = true := by
      cases hl : i.layer with
      -- An XO-Chip operation is active under XOCHIP only.
      | xo => cases hv' : s.config.variant <;> simp [hl, hv', Layer.activeIn] at hi hv
      | _ => rfl
    obtain ⟨hmask, hpat⟩ := exec_of_not_xo h hi'
    rw [hmask, hpat]
    exact hxo hv

/-- Settles O17: a step is a resolved key-wait or an operation of the variant, and both keep the invariant. -/
theorem everyStepKeepsTheInvariant : Obligations.EveryStepKeepsTheInvariant := by
  intro s t hs h
  obtain ⟨-, he⟩ | ⟨-, -, he⟩ | ⟨i, -, -, hd, he⟩ | ⟨e, -, -, -, he⟩ := step_cases s
  · obtain rfl : resolveKeyWait s = t := Host.Outcome.next.inj (he.symm.trans h)
    rw [inv_iff, resolveKeyWait_eq]
    exact ⟨(inv_iff s).1 hs, rfl⟩
  · cases he.symm.trans h
  · have hadv : Inv s.advancePc := (inv_iff _).2 ((inv_iff s).1 hs)
    have hi : i.layer.activeIn s.advancePc.config.variant = true := layer_activeIn_of_decode hd
    have hx : exec i s.advancePc = .next t := he.symm.trans h
    exact ⟨exec_inv hadv hi hx, (exec_config hx).trans s.advancePc_config⟩
  · cases he.symm.trans h

/-! ### The resolution round trip (R419) -/

theorem Plane.keepPrefix_of_blankFrom {n m : Nat} {pl : Plane} (hpl : Plane.BlankFrom n pl) (hnm : n ≤ m) :
    Plane.keepPrefix m pl = pl := by
  refine Plane.ext fun i => ?_
  rw [Plane.cell_keepPrefix]
  by_cases hi : i < m
  · rw [decide_eq_true hi, Bool.and_true]
  · rw [hpl i (by omega), Bool.false_and]

/-- A resolution switch leaves planes whose lit cells all lie within both screens. -/
theorem State.planes_setResolution_of_blankFrom {s : State} {hi : Bool} {n : Nat}
    (hb : ∀ pl ∈ s.planes, Plane.BlankFrom n pl) (hs : n ≤ s.height * s.width)
    (ht : n ≤ (s.setResolution hi).height * (s.setResolution hi).width) : (s.setResolution hi).planes = s.planes := by
  rw [State.planes_setResolution]
  exact (List.map_congr_left fun pl hpl => Plane.keepPrefix_of_blankFrom (hb pl hpl) (Nat.le_min.2 ⟨hs, ht⟩)).trans
    (List.map_id _)

/-- Settles O59: the 2048 cells of the low-resolution screen lie within both screens of both switches. -/
theorem resolutionRoundTrip : Obligations.ResolutionRoundTrip := by
  intro s hs hlow
  obtain ⟨-, ⟨-, hb⟩, -, -⟩ := (inv_iff s).1 hs
  have hsize : s.height * s.width = 2048 := by simp [State.height, State.width, hlow]
  rw [hsize] at hb
  have hup : (s.setResolution true).planes = s.planes :=
    State.planes_setResolution_of_blankFrom hb hsize.ge (by decide : 2048 ≤ 64 * 128)
  have hdown : ((s.setResolution true).setResolution false).planes = (s.setResolution true).planes :=
    State.planes_setResolution_of_blankFrom (hup ▸ hb) (by decide : 2048 ≤ 64 * 128) (by decide : 2048 ≤ 32 * 64)
  exact ⟨s.setResolution true, (s.setResolution true).setResolution false, rfl, rfl, hdown.trans hup, rfl⟩

end Sys2Proof.Machine
end

section
/-! What the three storing operations leave in memory (20_memory.md R81 to R84, R94; 42_index_memory_ops.md R304, R307, R311). -/

namespace Sys2Proof.Machine

/-- Settles O23: memory is in the frame of the three storing operations only. -/
theorem otherInstructionsLeaveMemory : Obligations.OtherInstructionsLeaveMemory := by
  intro i s t h hi a
  cases i with
  | ldB | ldMemVx | save => exact absurd (by simp [Instr.mnemonic]) hi
  | _ => rw [exec_frame h]; rfl

/-! ### One form for the three stores -/

/-- `s` with the bytes `v 0`, `v 1`, …, `v (n-1)` stored from `I` on, ascending. -/
def storeBytes (n : Nat) (v : Nat → Byte) (s : State) : State :=
  forUpTo n (fun k t => State.writeByte t (s.indexed k) (v k)) s

/-- The decimal digits of a byte in the order of their addresses (R304). -/
def decimalDigit (b : Byte) : Nat → Byte
  | 0 => hundreds b
  | 1 => tens b
  | _ => units b

theorem exec_ldB (x : Nibble) (s : State) : exec (.ldB x) s = .next (storeBytes 3 (decimalDigit (s.reg x)) s) := rfl

theorem exec_ldMemVx (x : Nibble) (s : State) :
    exec (.ldMemVx x) s = .next ((storeBytes (x.toNat + 1) (fun k => s.reg (BitVec.ofNat 4 k)) s).bumpI x) :=
  congrArg (fun t : State => Host.Outcome.next (t.bumpI x)) (storeRegs_eq ..)

theorem exec_save (x y : Nibble) (s : State) :
    exec (.save x y) s = .next (storeBytes (rangeDistance x y + 1) (fun k => s.reg (rangeRegister x y k)) s) :=
  congrArg Host.Outcome.next (storeRegs_eq ..)

theorem storeBytes_memory (n : Nat) (v : Nat → Byte) (s : State) :
    storeBytes n v s = { s with memory := (storeBytes n v s).memory } :=
  forUpTo_writeByte_memory ..

@[simp] theorem storeBytes_V (n : Nat) (v : Nat → Byte) (s : State) : (storeBytes n v s).V = s.V := by
  rw [storeBytes_memory]

@[simp] theorem storeBytes_pc (n : Nat) (v : Nat → Byte) (s : State) : (storeBytes n v s).pc = s.pc := by
  rw [storeBytes_memory]

/-- A store leaves every byte that is none of those it names (R83). -/
theorem readByte_storeBytes_of_ne {n : Nat} (v : Nat → Byte) {s : State} {a : Nat}
    (ha : ∀ k < n, addr s.config a ≠ addr s.config (s.indexed k)) : (storeBytes n v s).readByte a = s.readByte a :=
  (readByte_forUpTo_write n s.indexed v s a).2.1 ha

@[simp] theorem State.readByte_bumpI (s : State) (x : Nibble) (a : Nat) : (s.bumpI x).readByte a = s.readByte a :=
  State.readByte_congr (State.bumpI_config s x) (State.bumpI_memory s x) a

/-- Settles O24: each of the three is one `storeBytes`, and the index increment touches neither memory nor registers. -/
theorem storesLeaveEveryOtherByte : Obligations.StoresLeaveEveryOtherByte := fun x y s =>
  ⟨⟨_, exec_ldB x s, storeBytes_V .., fun _ ha => readByte_storeBytes_of_ne _ ha⟩,
    ⟨_, exec_ldMemVx x s, (State.bumpI_V ..).trans (storeBytes_V ..),
      fun a ha => (State.readByte_bumpI _ x a).trans (readByte_storeBytes_of_ne _ ha)⟩,
    ⟨_, exec_save x y s, storeBytes_V .., fun _ ha => readByte_storeBytes_of_ne _ ha⟩⟩

/-! ### Stores whose bytes fall on different addresses -/

/-- Sixteen addresses from `b` on are sixteen bytes of the space: always under Mask, and under Clamp where they end below the top
(R82). -/
theorem addr_add_injective {c : Config} {b j k : Nat} (hb : c.addressWrap = .mask ∨ b + 16 ≤ memorySize c) (hj : j < 16)
    (hk : k < 16) (h : addr c (b + j) = addr c (b + k)) : j = k := by
  rcases hb with hmask | hroom
  · have hsize : 16 ≤ memorySize c := by have := loadAddress_lt_memorySize c; omega
    have hmod : b + j ≡ b + k [MOD memorySize c] := by simpa [Nat.ModEq, addr, hmask] using h
    exact (Nat.ModEq.add_left_cancel' b hmod).eq_of_lt_of_lt (by omega) (by omega)
  · rw [addr_eq_self (by omega), addr_eq_self (by omega)] at h
    omega

/-- A store of up to sixteen such bytes, read back: the stored bytes, and after them the bytes as before. -/
theorem readByte_storeBytes_indexed {s : State} {n k : Nat} (v : Nat → Byte)
    (hI : s.config.addressWrap = .mask ∨ s.I.toNat + 16 ≤ memorySize s.config) (hn : n ≤ 16) (hk : k < 16) :
    (storeBytes n v s).readByte (s.indexed k) = if k < n then v k else s.readByte (s.indexed k) := by
  have hne (j : Nat) (hj : j < n) (hjk : k ≠ j) : addr s.config (s.indexed k) ≠ addr s.config (s.indexed j) :=
    fun h => hjk (addr_add_injective hI hk (by omega) h)
  split
  case isTrue hkn => exact (readByte_forUpTo_write n s.indexed v s _).2.2 k hkn rfl (fun j hj hkj => hne j hj hkj.ne)
  case isFalse hkn => exact readByte_storeBytes_of_ne v (fun j hj => hne j hj (by omega))

@[simp] theorem State.fetchWord_bumpI (s : State) (x : Nibble) : (s.bumpI x).fetchWord = s.fetchWord := by
  simp [State.fetchWord, State.readWord]

/-- The word fetched next after a store over it: the first two stored bytes, or the one stored byte and the old second one (R94;
92_eei_decisions.md D40). -/
theorem fetchWord_storeBytes {s : State} {n : Nat} (v : Nat → Byte)
    (hwrap : s.config.addressWrap = .mask ∨ s.pc.toNat + 16 ≤ memorySize s.config) (hI : s.I = s.pc) (hn : n < 16) :
    (storeBytes (n + 1) v s).fetchWord = v 0 ++ (if n = 0 then s.readByte (s.pc.toNat + 1) else v 1) := by
  rw [← hI] at hwrap ⊢
  have hhi : (storeBytes (n + 1) v s).readByte s.I.toNat = v 0 :=
    (readByte_storeBytes_indexed v hwrap hn (k := 0) (by decide)).trans (if_pos n.succ_pos)
  have hlo : (storeBytes (n + 1) v s).readByte (s.I.toNat + 1) = if 1 < n + 1 then v 1 else s.readByte (s.I.toNat + 1) :=
    readByte_storeBytes_indexed v hwrap hn (k := 1) (by decide)
  rw [State.fetchWord, storeBytes_pc, ← hI, State.readWord, hhi, hlo]
  cases n with
  | zero => rfl
  | succ n => simp [wordOfBytes]

theorem rangeDistance_eq_zero_iff {x y : Nibble} : rangeDistance x y = 0 ↔ x = y := by
  rw [← BitVec.toNat_inj]
  unfold rangeDistance
  split <;> omega

theorem rangeDistance_lt (x y : Nibble) : rangeDistance x y < 16 := by
  have := x.isLt
  have := y.isLt
  unfold rangeDistance
  split <;> omega

@[simp] theorem rangeRegister_zero (x y : Nibble) : rangeRegister x y 0 = x := by
  simp [rangeRegister]

/-- The registers of a range, as the statements number them. -/
theorem rangeReg_eq_rangeRegister {x y : Nibble} {k : Nat} (hk : k ≤ rangeDistance x y) :
    Claims.rangeReg x y k = rangeRegister x y k := by
  rw [Claims.rangeReg, ← toNat_rangeRegister hk, BitVec.ofNat_toNat, BitVec.setWidth_eq]

/-- The big-endian word of the hundreds and tens digits. -/
theorem toNat_hundreds_append_tens (b : Byte) : (hundreds b ++ tens b).toNat = 256 * (b.toNat / 100) + b.toNat / 10 % 10 := by
  have := b.isLt
  rw [BitVec.toNat_append, ← Nat.shiftLeft_add_eq_or_of_lt (tens b).isLt, Nat.shiftLeft_eq]
  simp only [hundreds, tens, BitVec.toNat_ofNat]
  omega

/-- Settles O27: each store is a `storeBytes` from `pc` on, so the next fetch reads the first two bytes it stores. -/
theorem storeOverTheNextInstructionIsFetched : Obligations.StoreOverTheNextInstructionIsFetched := by
  intro s x y hwrap hI
  refine ⟨⟨_, exec_ldMemVx x s, (State.bumpI_pc ..).trans (storeBytes_pc ..), ?_⟩, ⟨_, exec_ldB x s, storeBytes_pc .., ?_⟩,
    ⟨_, exec_save x y s, storeBytes_pc .., ?_⟩⟩
  · exact (State.fetchWord_bumpI _ x).trans (fetchWord_storeBytes _ hwrap hI x.isLt)
  · exact (congrArg BitVec.toNat (fetchWord_storeBytes _ hwrap hI (by decide))).trans (toNat_hundreds_append_tens _)
  · refine (fetchWord_storeBytes _ hwrap hI (rangeDistance_lt x y)).trans ?_
    simp only [rangeRegister_zero, rangeDistance_eq_zero_iff]
    split
    case isTrue => rfl
    case isFalse hxy =>
      rw [rangeReg_eq_rangeRegister (Nat.one_le_iff_ne_zero.2 (mt rangeDistance_eq_zero_iff.1 hxy))]

end Sys2Proof.Machine
end

section
/-! The fields of a word: a word is its fields in a row, and the fields of such a row (30_encoding.md R113, R116). -/

namespace Sys2Proof

/-! ### A word put together from its fields -/

theorem append_fieldNNN {w : Word} {op : Nibble} (hop : fieldOp w = op) : op ++ fieldNNN w = w := by
  subst hop
  exact (BitVec.extractLsb'_append_extractLsb'_eq_extractLsb' rfl).trans BitVec.extractLsb'_eq_self

theorem append_fieldN {w : Word} {hi : Addr12} (hhi : w.extractLsb' 4 12 = hi) : hi ++ fieldN w = w := by
  subst hhi
  exact (BitVec.extractLsb'_append_extractLsb'_eq_extractLsb' rfl).trans BitVec.extractLsb'_eq_self

theorem fieldOp_append_fieldX (w : Word) : fieldOp w ++ fieldX w = w.extractLsb' 8 8 :=
  BitVec.extractLsb'_append_extractLsb'_eq_extractLsb' rfl

theorem append_fieldX {w : Word} {op : Nibble} {nn : Byte} (hop : fieldOp w = op) (hnn : fieldNN w = nn) :
    op ++ fieldX w ++ nn = w := by
  subst hop hnn
  rw [fieldOp_append_fieldX]
  exact (BitVec.extractLsb'_append_extractLsb'_eq_extractLsb' rfl).trans BitVec.extractLsb'_eq_self

theorem append_fieldX_fieldY {w : Word} {op n : Nibble} (hop : fieldOp w = op) (hn : fieldN w = n) :
    op ++ fieldX w ++ fieldY w ++ n = w := by
  subst hop hn
  have hhi : w.extractLsb' 8 8 ++ fieldY w = w.extractLsb' 4 12 := BitVec.extractLsb'_append_extractLsb'_eq_extractLsb' rfl
  rw [fieldOp_append_fieldX, hhi]
  exact append_fieldN rfl

/-! ### The fields of a word written in one of the formats -/

@[simp] theorem fieldOp_nnn (op : Nibble) (nnn : Addr12) : fieldOp (op ++ nnn) = op := BitVec.extractLsb'_append_eq_left

@[simp] theorem fieldNNN_nnn (op : Nibble) (nnn : Addr12) : fieldNNN (op ++ nnn) = nnn := BitVec.extractLsb'_append_eq_right

@[simp] theorem fieldOp_xnn (op x : Nibble) (nn : Byte) : fieldOp (op ++ x ++ nn) = op :=
  (BitVec.extractLsb'_append_eq_of_le (by decide)).trans BitVec.extractLsb'_append_eq_left

@[simp] theorem fieldX_xnn (op x : Nibble) (nn : Byte) : fieldX (op ++ x ++ nn) = x :=
  (BitVec.extractLsb'_append_eq_of_le (by decide)).trans BitVec.extractLsb'_append_eq_right

@[simp] theorem fieldNN_xnn (op x : Nibble) (nn : Byte) : fieldNN (op ++ x ++ nn) = nn := BitVec.extractLsb'_append_eq_right

@[simp] theorem fieldOp_xyn (op x y n : Nibble) : fieldOp (op ++ x ++ y ++ n) = op :=
  (BitVec.extractLsb'_append_eq_of_le (by decide)).trans <|
    (BitVec.extractLsb'_append_eq_of_le (by decide)).trans BitVec.extractLsb'_append_eq_left

@[simp] theorem fieldX_xyn (op x y n : Nibble) : fieldX (op ++ x ++ y ++ n) = x :=
  (BitVec.extractLsb'_append_eq_of_le (by decide)).trans <|
    (BitVec.extractLsb'_append_eq_of_le (by decide)).trans BitVec.extractLsb'_append_eq_right

@[simp] theorem fieldY_xyn (op x y n : Nibble) : fieldY (op ++ x ++ y ++ n) = y :=
  (BitVec.extractLsb'_append_eq_of_le (by decide)).trans BitVec.extractLsb'_append_eq_right

@[simp] theorem fieldN_xyn (op x y n : Nibble) : fieldN (op ++ x ++ y ++ n) = n := BitVec.extractLsb'_append_eq_right

@[simp] theorem fieldOp_scroll (hi : Addr12) (n : Nibble) : fieldOp (hi ++ n) = hi.extractLsb' 8 4 :=
  BitVec.extractLsb'_append_eq_of_le (by decide)

@[simp] theorem fieldHi_scroll (hi : Addr12) (n : Nibble) : (hi ++ n : Word).extractLsb' 4 12 = hi :=
  BitVec.extractLsb'_append_eq_left

@[simp] theorem fieldN_scroll (hi : Addr12) (n : Nibble) : fieldN (hi ++ n) = n := BitVec.extractLsb'_append_eq_right

end Sys2Proof
end

section
/-! The decoder's layers against the encoder: each layer decodes exactly the words of its operations, and what follows for the
three variants (30_encoding.md R118 to R127). -/

namespace Sys2Proof

/-! ### One layer -/

/-- An operation's layer decodes its word back to it. -/
theorem layerDecode_encode (i : Instr) : layerDecode i.layer (encode i) = some i := by
  cases i
  -- Operations without operands: one word.
  case cls | ret | scright | scleft | exit | low | high | ldILong | audio => rfl
  -- `LD I,long` stands above `PLANE` in its layer and is told from it by `nn`.
  case plane n =>
    have hne : 0xF#4 ++ n ++ 0x01#8 ≠ 0xF000#16 := ne_of_apply_ne fieldNN (by rw [fieldNN_xnn]; decide)
    simp [Instr.layer, layerDecode, encode, xoLayer, hne]
  -- The layer dispatches on the fields, which are those the encoder wrote.
  all_goals simp [Instr.layer, layerDecode, encode, baseLayer, baseArithmetic, baseMisc, schipLayer, xoLayer]

theorem encode_of_baseArithmetic {w : Word} {i : Instr} (hop : fieldOp w = 0x8#4)
    (h : baseArithmetic (fieldX w) (fieldY w) (fieldN w) = some i) : encode i = w := by
  unfold baseArithmetic at h
  split at h
  case h_10 => cases h
  all_goals
    rename_i hn
    cases h
    exact append_fieldX_fieldY hop (BitVec.eq_of_toNat_eq hn)

theorem encode_of_baseMisc {w : Word} {i : Instr} (hop : fieldOp w = 0xF#4) (h : baseMisc (fieldX w) (fieldNN w) = some i) :
    encode i = w := by
  unfold baseMisc at h
  split at h
  case h_10 => cases h
  all_goals
    rename_i hnn
    cases h
    exact append_fieldX hop (BitVec.eq_of_toNat_eq hnn)

theorem encode_of_baseLayer {w : Word} {i : Instr} (h : baseLayer w = some i) : encode i = w := by
  unfold baseLayer at h
  split at h
  case h_1 =>
    split_ifs at h with hcls hret
    · cases h; exact hcls.symm
    · cases h; exact hret.symm
  case h_2 hop | h_3 hop | h_11 hop | h_12 hop => cases h; exact append_fieldNNN (BitVec.eq_of_toNat_eq hop)
  case h_4 hop | h_5 hop | h_7 hop | h_8 hop | h_13 hop => cases h; exact append_fieldX (BitVec.eq_of_toNat_eq hop) rfl
  case h_6 hop | h_10 hop =>
    split_ifs at h with hn
    cases h
    exact append_fieldX_fieldY (BitVec.eq_of_toNat_eq hop) hn
  case h_9 hop => exact encode_of_baseArithmetic (BitVec.eq_of_toNat_eq hop) h
  case h_14 hop => cases h; exact append_fieldX_fieldY (BitVec.eq_of_toNat_eq hop) rfl
  case h_15 hop =>
    split_ifs at h with hskp hsknp
    · cases h; exact append_fieldX (BitVec.eq_of_toNat_eq hop) hskp
    · cases h; exact append_fieldX (BitVec.eq_of_toNat_eq hop) hsknp
  case h_16 hop => exact encode_of_baseMisc (BitVec.eq_of_toNat_eq hop) h
  case h_17 => cases h

theorem encode_of_schipLayer {w : Word} {i : Instr} (h : schipLayer w = some i) : encode i = w := by
  obtain ⟨-, hhi, rfl⟩ | ⟨rfl, rfl⟩ | ⟨rfl, rfl⟩ | ⟨rfl, rfl⟩ | ⟨rfl, rfl⟩ | ⟨rfl, rfl⟩ | ⟨hop, hn, rfl⟩ | ⟨hop, hnn, rfl⟩ |
    ⟨hop, hnn, rfl⟩ | ⟨hop, hnn, rfl⟩ := schipLayer_cases h
  · exact append_fieldN hhi
  iterate 5 rfl
  · exact append_fieldX_fieldY hop hn
  all_goals exact append_fieldX hop hnn

theorem encode_of_xoLayer {w : Word} {i : Instr} (h : xoLayer w = some i) : encode i = w := by
  obtain ⟨-, hhi, rfl⟩ | ⟨hop, hn, rfl⟩ | ⟨hop, hn, rfl⟩ | ⟨rfl, rfl⟩ | ⟨hop, hnn, rfl⟩ | ⟨rfl, rfl⟩ := xoLayer_cases h
  · exact append_fieldN hhi
  · exact append_fieldX_fieldY hop hn
  · exact append_fieldX_fieldY hop hn
  · rfl
  · exact append_fieldX hop hnn
  · rfl

/-- A layer decodes a word to an operation exactly if the operation is the layer's and the word is its word (R121 to R123). -/
theorem layerDecode_eq_some_iff {l : Layer} {w : Word} {i : Instr} :
    layerDecode l w = some i ↔ i.layer = l ∧ encode i = w := by
  constructor
  · intro h
    cases l with
    | base => exact ⟨Machine.baseLayer_layer h, encode_of_baseLayer h⟩
    | schip => exact ⟨Machine.schipLayer_layer h, encode_of_schipLayer h⟩
    | xo => exact ⟨Machine.xoLayer_layer h, encode_of_xoLayer h⟩
  · rintro ⟨rfl, rfl⟩
    exact layerDecode_encode i

/-! ### The variants -/

/-- A word the SuperChip layer decodes, under SCHIP (R120). -/
theorem decode_schip_of_schipLayer {w : Word} {i : Instr} (h : schipLayer w = some i) : decode .schip w = .ok i :=
  decode_eq_ok_iff.2 (Option.or_eq_some_iff.2 (.inl h))

/-- A word the XO-Chip layer decodes, under XOCHIP (R120). -/
theorem decode_xochip_of_xoLayer {w : Word} {i : Instr} (h : xoLayer w = some i) : decode .xochip w = .ok i :=
  decode_eq_ok_iff.2 (Option.or_eq_some_iff.2 (.inl h))

/-- What a variant decodes, some layer decodes (R120). -/
theorem exists_layerDecode_of_decode {v : Variant} {w : Word} {i : Instr} (h : decode v w = .ok i) :
    ∃ l, layerDecode l w = some i := by
  have ha := decode_eq_ok_iff.1 h
  have hlower (h : (schipLayer w).or (baseLayer w) = some i) : ∃ l, layerDecode l w = some i := by
    obtain hs | ⟨-, hb⟩ := Option.or_eq_some_iff.1 h
    · exact ⟨.schip, hs⟩
    · exact ⟨.base, hb⟩
  cases v with
  | chip8 => exact ⟨.base, ha⟩
  | schip => exact hlower ha
  | xochip =>
    obtain hx | ⟨-, ha⟩ := Option.or_eq_some_iff.1 ha
    · exact ⟨.xo, hx⟩
    · exact hlower ha

theorem encode_of_decode {v : Variant} {w : Word} {i : Instr} (h : decode v w = .ok i) : encode i = w := by
  obtain ⟨l, hl⟩ := exists_layerDecode_of_decode h
  exact (layerDecode_eq_some_iff.1 hl).2

/-- The shadowed operations (R120). -/
theorem Instr.shadowedIn_iff {i : Instr} {v : Variant} :
    i.shadowedIn v = true ↔ (∃ x y, i = .drw x y 0) ∧ Layer.schip.activeIn v = true := by
  cases i <;> simp [Instr.shadowedIn]

theorem Instr.wellFormed_iff {i : Instr} {v : Variant} :
    i.wellFormed v = true ↔
      i.layer.activeIn v = true ∧ ¬ ((∃ x y, i = .drw x y 0) ∧ Layer.schip.activeIn v = true) := by
  rw [← Instr.shadowedIn_iff]
  simp [Instr.wellFormed]

/-- Where the SuperChip layer is active, the word of `DRW` with `n = 0` is decoded as `DRW16` (R120). -/
theorem decode_encode_drw_zero {v : Variant} (x y : Nibble) (hv : Layer.schip.activeIn v = true) :
    decode v (encode (.drw x y 0)) = .ok (.drw16 x y) := by
  have hs := decode_schip_of_schipLayer (schipLayer_eq_drw16_of_drw (layerDecode_encode (.drw x y 0)))
  cases v with
  | chip8 => cases hv
  | schip => exact hs
  | xochip => exact decode_xochip_of_schip hs

/-- SCHIP decodes the words of the two lower layers, but for `DRW` with `n = 0`. -/
theorem decode_schip_encode {i : Instr} (hlayer : i.layer ≠ .xo) (hdrw : ¬ ∃ x y, i = .drw x y 0) :
    decode .schip (encode i) = .ok i := by
  cases hl : i.layer with
  | base =>
    have hb : baseLayer (encode i) = some i := layerDecode_eq_some_iff.2 ⟨hl, rfl⟩
    simp [decode_eq_ok_iff, activeLayers, schipLayer_eq_none_of_baseLayer hb hdrw, hb]
  | schip => exact decode_schip_of_schipLayer (layerDecode_eq_some_iff.2 ⟨hl, rfl⟩)
  | xo => exact absurd hl hlayer

/-- Settles O1: the operation's own layer decodes its word, and no higher layer takes the word of one that is not shadowed. -/
theorem decodeOfEncodeIsTheInstruction : Obligations.DecodeOfEncodeIsTheInstruction := by
  intro v i hwf
  obtain ⟨hactive, hshadow⟩ := Instr.wellFormed_iff.1 hwf
  cases v with
  | chip8 =>
    have hl : i.layer = .base := by cases hl : i.layer <;> simp [hl, Layer.activeIn] at hactive ⊢
    exact decode_eq_ok_iff.2 (layerDecode_eq_some_iff.2 ⟨hl, rfl⟩)
  | schip =>
    have hl : i.layer ≠ .xo := fun hl => by simp [hl, Layer.activeIn] at hactive
    exact decode_schip_encode hl fun hdrw => hshadow ⟨hdrw, rfl⟩
  | xochip =>
    by_cases hl : i.layer = .xo
    · exact decode_xochip_of_xoLayer (layerDecode_eq_some_iff.2 ⟨hl, rfl⟩)
    · exact decode_xochip_of_schip (decode_schip_encode hl fun hdrw => hshadow ⟨hdrw, rfl⟩)

/-- Settles O2: the word is that of the operation its layer gives, and a shadowed `DRW` is decoded as `DRW16`. -/
theorem encodeOfDecodeIsTheWord : Obligations.EncodeOfDecodeIsTheWord := by
  intro v w i h
  obtain rfl := encode_of_decode h
  refine ⟨Instr.wellFormed_iff.2 ⟨Machine.layer_activeIn_of_decode h, ?_⟩, rfl⟩
  rintro ⟨⟨x, y, rfl⟩, hv⟩
  have hsame := h.symm.trans (decode_encode_drw_zero x y hv)
  cases hsame

/-- Settles O7, a sanity check on seventeen words. -/
theorem writtenOutWordsDecode : Obligations.WrittenOutWordsDecode := by
  unfold Obligations.WrittenOutWordsDecode
  decide

/-! ### Rejected words -/

/-- The base layer is active in every variant (R120). -/
theorem baseLayer_eq_none_of_activeLayers {v : Variant} {w : Word} (h : activeLayers v w = none) : baseLayer w = none := by
  cases v with
  | chip8 => exact h
  | schip => exact (Option.or_eq_none_iff.1 h).2
  | xochip => exact (Option.or_eq_none_iff.1 (Option.or_eq_none_iff.1 h).2).2

/-- Some variant decodes a word that the base layer does not decode exactly if a higher layer does (R126). -/
theorem exists_decode_iff {w : Word} (hb : baseLayer w = none) :
    (∃ u i, decode u w = .ok i) ↔ ((schipLayer w).isSome || (xoLayer w).isSome) = true := by
  simp only [Bool.or_eq_true, Option.isSome_iff_exists]
  constructor
  · rintro ⟨u, i, h⟩
    obtain ⟨l, hl⟩ := exists_layerDecode_of_decode h
    cases l with
    | base => cases hb.symm.trans hl
    | schip => exact .inl ⟨i, hl⟩
    | xo => exact .inr ⟨i, hl⟩
  · rintro (⟨i, hs⟩ | ⟨i, hx⟩)
    · exact ⟨.schip, i, decode_schip_of_schipLayer hs⟩
    · exact ⟨.xochip, i, decode_xochip_of_xoLayer hx⟩

open Classical in
/-- What the decoder answers, told from what the variants decode (R126; 92_eei_decisions.md D10). -/
theorem decode_of_rejected {v : Variant} {w : Word} (h : ∀ i, decode v w ≠ .ok i) :
    decode v w = .error (if ∃ u i, decode u w = .ok i then .variantViolation else .illegalInstruction) := by
  have hnone : activeLayers v w = none := Option.eq_none_iff_forall_ne_some.2 fun i => mt decode_eq_ok_iff.2 (h i)
  simp only [exists_decode_iff (baseLayer_eq_none_of_activeLayers hnone)]
  unfold decode
  rw [hnone]
  exact (apply_ite Except.error _ _ _).symm

/-- Settles O3: the word is decoded; or rejected, and some variant decodes it; or rejected by every variant. -/
theorem rejectedWordsAreClassified : Obligations.RejectedWordsAreClassified := by
  intro v w
  by_cases hrej : ∀ i, decode v w ≠ .ok i
  · by_cases hsome : ∃ u i, decode u w = .ok i
    · have hd : decode v w = .error .variantViolation := (decode_of_rejected hrej).trans (by rw [if_pos hsome])
      exact ⟨iff_of_true hd ⟨hrej, hsome⟩, iff_of_false (by simp [hd]) (by simpa using hsome)⟩
    · have hd : decode v w = .error .illegalInstruction := (decode_of_rejected hrej).trans (by rw [if_neg hsome])
      exact ⟨iff_of_false (by simp [hd]) fun h => hsome h.2, iff_of_true hd (by simpa using hsome)⟩
  · obtain ⟨i, hi⟩ := not_forall_not.1 hrej
    exact ⟨iff_of_false (by simp [hi]) fun h => hrej h.1, iff_of_false (by simp [hi]) fun h => h v i hi⟩

end Sys2Proof
end

section
/-! The decoder's layers against the fifty rows of the opcode table (30_encoding.md R124). -/

namespace Sys2Proof

/-- The row of an operation accepts its word, whatever the operation: the laws of the fifty, put together. -/
theorem encodesToRow : ∀ i : Instr, Laws.EncodesToRow.Statement i
  | .cls => Laws.EncodesToRow.cls
  | .ret => Laws.EncodesToRow.ret
  | .jp nnn => Laws.EncodesToRow.jp nnn
  | .call nnn => Laws.EncodesToRow.call nnn
  | .seImm x nn => Laws.EncodesToRow.seImm x nn
  | .sneImm x nn => Laws.EncodesToRow.sneImm x nn
  | .seReg x y => Laws.EncodesToRow.seReg x y
  | .ldImm x nn => Laws.EncodesToRow.ldImm x nn
  | .addImm x nn => Laws.EncodesToRow.addImm x nn
  | .ldReg x y => Laws.EncodesToRow.ldReg x y
  | .or x y => Laws.EncodesToRow.or x y
  | .and x y => Laws.EncodesToRow.and x y
  | .xor x y => Laws.EncodesToRow.xor x y
  | .addReg x y => Laws.EncodesToRow.addReg x y
  | .sub x y => Laws.EncodesToRow.sub x y
  | .shr x y => Laws.EncodesToRow.shr x y
  | .subn x y => Laws.EncodesToRow.subn x y
  | .shl x y => Laws.EncodesToRow.shl x y
  | .sneReg x y => Laws.EncodesToRow.sneReg x y
  | .ldI nnn => Laws.EncodesToRow.ldI nnn
  | .jpV0 nnn => Laws.EncodesToRow.jpV0 nnn
  | .rnd x nn => Laws.EncodesToRow.rnd x nn
  | .drw x y n => Laws.EncodesToRow.drw x y n
  | .skp x => Laws.EncodesToRow.skp x
  | .sknp x => Laws.EncodesToRow.sknp x
  | .ldVxDt x => Laws.EncodesToRow.ldVxDt x
  | .ldVxK x => Laws.EncodesToRow.ldVxK x
  | .ldDtVx x => Laws.EncodesToRow.ldDtVx x
  | .ldStVx x => Laws.EncodesToRow.ldStVx x
  | .addI x => Laws.EncodesToRow.addI x
  | .ldF x => Laws.EncodesToRow.ldF x
  | .ldB x => Laws.EncodesToRow.ldB x
  | .ldMemVx x => Laws.EncodesToRow.ldMemVx x
  | .ldVxMem x => Laws.EncodesToRow.ldVxMem x
  | .scdown n => Laws.EncodesToRow.scdown n
  | .scright => Laws.EncodesToRow.scright
  | .scleft => Laws.EncodesToRow.scleft
  | .exit => Laws.EncodesToRow.exit
  | .low => Laws.EncodesToRow.low
  | .high => Laws.EncodesToRow.high
  | .drw16 x y => Laws.EncodesToRow.drw16 x y
  | .ldHf x => Laws.EncodesToRow.ldHf x
  | .ldRVx x => Laws.EncodesToRow.ldRVx x
  | .ldVxR x => Laws.EncodesToRow.ldVxR x
  | .scup n => Laws.EncodesToRow.scup n
  | .save x y => Laws.EncodesToRow.save x y
  | .load x y => Laws.EncodesToRow.load x y
  | .ldILong => Laws.EncodesToRow.ldILong
  | .plane n => Laws.EncodesToRow.plane n
  | .audio => Laws.EncodesToRow.audio

/-! ### From the rows to the layers -/

/-- The word is that of an operation of the row. -/
def OpcodeRow.HasWord (r : OpcodeRow) (w : Word) : Prop :=
  ∃ i : Instr, i.layer = r.layer ∧ i.mnemonic = r.mnemonic ∧ encode i = w

/-- A field that the row's mask keeps whole is as in the row's value. -/
theorem OpcodeRow.extractLsb'_eq_of_accepts {r : OpcodeRow} {w : Word} {start len : Nat} (h : r.accepts w = true)
    (hmask : r.mask.extractLsb' start len = BitVec.allOnes len) : w.extractLsb' start len = r.value.extractLsb' start len := by
  have hw : w &&& r.mask = r.value := eq_of_beq h
  rw [← hw, BitVec.extractLsb'_and, hmask, BitVec.and_allOnes]

/-! One lemma per format of R116: a row whose mask keeps the fixed fields of the format accepts only words of the operations of
that format it is given for. -/

namespace OpcodeRow.HasWord

variable {r : OpcodeRow} {w : Word}

theorem of_word (i : Instr) (h : r.accepts w = true)
    (hi : i.layer = r.layer ∧ i.mnemonic = r.mnemonic ∧ encode i = r.value := by exact ⟨rfl, rfl, rfl⟩)
    (hmask : r.mask = 0xFFFF#16 := by rfl) : r.HasWord w := by
  obtain ⟨hl, hm, he⟩ := hi
  have hw : w &&& r.mask = r.value := eq_of_beq h
  have hones : w &&& 0xFFFF#16 = w := BitVec.and_allOnes
  rw [hmask, hones] at hw
  exact ⟨i, hl, hm, he.trans hw.symm⟩

theorem of_nnn (f : Addr12 → Instr) (h : r.accepts w = true)
    (hf : ∀ a, (f a).layer = r.layer ∧ (f a).mnemonic = r.mnemonic ∧ encode (f a) = fieldOp r.value ++ a := by
      exact fun _ => ⟨rfl, rfl, rfl⟩)
    (hop : fieldOp r.mask = BitVec.allOnes 4 := by rfl) : r.HasWord w := by
  obtain ⟨hl, hm, he⟩ := hf (fieldNNN w)
  exact ⟨_, hl, hm, he.trans (append_fieldNNN (extractLsb'_eq_of_accepts h hop))⟩

theorem of_xnn (f : Nibble → Byte → Instr) (h : r.accepts w = true)
    (hf : ∀ x b, (f x b).layer = r.layer ∧ (f x b).mnemonic = r.mnemonic ∧ encode (f x b) = fieldOp r.value ++ x ++ b := by
      exact fun _ _ => ⟨rfl, rfl, rfl⟩)
    (hop : fieldOp r.mask = BitVec.allOnes 4 := by rfl) : r.HasWord w := by
  obtain ⟨hl, hm, he⟩ := hf (fieldX w) (fieldNN w)
  exact ⟨_, hl, hm, he.trans (append_fieldX (extractLsb'_eq_of_accepts h hop) rfl)⟩

theorem of_x (f : Nibble → Instr) (h : r.accepts w = true)
    (hf : ∀ x, (f x).layer = r.layer ∧ (f x).mnemonic = r.mnemonic ∧
      encode (f x) = fieldOp r.value ++ x ++ fieldNN r.value := by exact fun _ => ⟨rfl, rfl, rfl⟩)
    (hop : fieldOp r.mask = BitVec.allOnes 4 := by rfl) (hnn : fieldNN r.mask = BitVec.allOnes 8 := by rfl) :
    r.HasWord w := by
  obtain ⟨hl, hm, he⟩ := hf (fieldX w)
  exact ⟨_, hl, hm, he.trans (append_fieldX (extractLsb'_eq_of_accepts h hop) (extractLsb'_eq_of_accepts h hnn))⟩

theorem of_xyn (f : Nibble → Nibble → Nibble → Instr) (h : r.accepts w = true)
    (hf : ∀ x y n, (f x y n).layer = r.layer ∧ (f x y n).mnemonic = r.mnemonic ∧
      encode (f x y n) = fieldOp r.value ++ x ++ y ++ n := by exact fun _ _ _ => ⟨rfl, rfl, rfl⟩)
    (hop : fieldOp r.mask = BitVec.allOnes 4 := by rfl) : r.HasWord w := by
  obtain ⟨hl, hm, he⟩ := hf (fieldX w) (fieldY w) (fieldN w)
  exact ⟨_, hl, hm, he.trans (append_fieldX_fieldY (extractLsb'_eq_of_accepts h hop) rfl)⟩

theorem of_xy (f : Nibble → Nibble → Instr) (h : r.accepts w = true)
    (hf : ∀ x y, (f x y).layer = r.layer ∧ (f x y).mnemonic = r.mnemonic ∧
      encode (f x y) = fieldOp r.value ++ x ++ y ++ fieldN r.value := by exact fun _ _ => ⟨rfl, rfl, rfl⟩)
    (hop : fieldOp r.mask = BitVec.allOnes 4 := by rfl) (hn : fieldN r.mask = BitVec.allOnes 4 := by rfl) :
    r.HasWord w := by
  obtain ⟨hl, hm, he⟩ := hf (fieldX w) (fieldY w)
  exact ⟨_, hl, hm, he.trans (append_fieldX_fieldY (extractLsb'_eq_of_accepts h hop) (extractLsb'_eq_of_accepts h hn))⟩

theorem of_n (f : Nibble → Instr) (h : r.accepts w = true)
    (hf : ∀ n, (f n).layer = r.layer ∧ (f n).mnemonic = r.mnemonic ∧ encode (f n) = r.value.extractLsb' 4 12 ++ n := by
      exact fun _ => ⟨rfl, rfl, rfl⟩)
    (hhi : r.mask.extractLsb' 4 12 = BitVec.allOnes 12 := by rfl) : r.HasWord w := by
  obtain ⟨hl, hm, he⟩ := hf (fieldN w)
  exact ⟨_, hl, hm, he.trans (append_fieldN (extractLsb'_eq_of_accepts h hhi))⟩

end OpcodeRow.HasWord

open OpcodeRow.HasWord in
/-- A word that a row accepts is that of an operation of the row: each row's operation and format, in the table's
order (R124). -/
theorem OpcodeRow.hasWord_of_accepts {r : OpcodeRow} (hr : r ∈ opcodeTable) {w : Word} (h : r.accepts w = true) :
    r.HasWord w := by
  fin_cases hr
  exacts [of_word .cls h, of_word .ret h, of_nnn .jp h, of_nnn .call h, of_xnn .seImm h, of_xnn .sneImm h, of_xy .seReg h,
    of_xnn .ldImm h, of_xnn .addImm h, of_xy .ldReg h, of_xy .or h, of_xy .and h, of_xy .xor h, of_xy .addReg h,
    of_xy .sub h, of_xy .shr h, of_xy .subn h, of_xy .shl h, of_xy .sneReg h, of_nnn .ldI h, of_nnn .jpV0 h, of_xnn .rnd h,
    of_xyn .drw h, of_x .skp h, of_x .sknp h, of_x .ldVxDt h, of_x .ldVxK h, of_x .ldDtVx h, of_x .ldStVx h, of_x .addI h,
    of_x .ldF h, of_x .ldB h, of_x .ldMemVx h, of_x .ldVxMem h, of_n .scdown h, of_word .scright h, of_word .scleft h,
    of_word .exit h, of_word .low h, of_word .high h, of_xy .drw16 h, of_x .ldHf h, of_x .ldRVx h, of_x .ldVxR h,
    of_n .scup h, of_xy .save h, of_xy .load h, of_word .ldILong h, of_x .plane h, of_word .audio h]

/-- A word that a row accepts is decoded by the row's layer to an operation of the row (R124). -/
theorem OpcodeRow.exists_layerDecode_of_accepts {r : OpcodeRow} (hr : r ∈ opcodeTable) {w : Word} (h : r.accepts w = true) :
    ∃ i, layerDecode r.layer w = some i ∧ i.mnemonic = r.mnemonic := by
  obtain ⟨i, hl, hm, he⟩ := hasWord_of_accepts hr h
  exact ⟨i, layerDecode_eq_some_iff.2 ⟨hl, he⟩, hm⟩

/-- Settles O5: a layer decodes the words of its operations, and an operation's words are those its row accepts. -/
theorem layersAgreeWithTheOpcodeTable : Obligations.LayersAgreeWithTheOpcodeTable := by
  refine ⟨rfl, fun l w => ⟨fun i h => ?_, ?_⟩⟩
  · obtain ⟨rfl, rfl⟩ := layerDecode_eq_some_iff.1 h
    obtain ⟨r, hr, hm, hl, hacc⟩ := encodesToRow i
    exact ⟨r, hr, hl, hm, hacc⟩
  · rintro r hr rfl hacc
    exact OpcodeRow.exists_layerDecode_of_accepts hr hacc

/-- Fifty rows, fifty mnemonics (R124). -/
theorem nodup_mnemonics : (opcodeTable.map OpcodeRow.mnemonic).Nodup := by
  decide

/-- Settles O6: the layer decodes the word to one operation, whose mnemonic is that of one row. -/
theorem rowsOfOneLayerNeverOverlap : Obligations.RowsOfOneLayerNeverOverlap := by
  intro r hr q hq hlayer w hrw hqw
  obtain ⟨i, hi, hir⟩ := OpcodeRow.exists_layerDecode_of_accepts hr hrw
  obtain ⟨j, hj, hjq⟩ := OpcodeRow.exists_layerDecode_of_accepts hq hqw
  have hij : i = j := Option.some.inj (hi.symm.trans (hlayer ▸ hj))
  exact List.inj_on_of_nodup_map nodup_mnemonics hr hq (hir.symm.trans (hij ▸ hjq))

end Sys2Proof
end

section
/-! The step outside the key-wait, told from the bytes at `pc` (30_encoding.md R110 to R114). -/

namespace Sys2Proof.Machine

/-- A fetch is aligned where `pc` is even or may be odd (R111). -/
theorem State.fetchMisaligned_eq_false_iff {s : State} :
    s.fetchMisaligned = false ↔ s.pc.toNat % 2 = 0 ∨ s.config.allowMisaligned = true := by
  simp [State.fetchMisaligned, BitVec.getLsbD, Nat.testBit_zero, or_iff_not_imp_left]

/-- Settles O8: the word fetched is the two bytes at `pc`, the high byte first. -/
theorem stepRunsTheDecodedInstruction : Obligations.StepRunsTheDecodedInstruction :=
  fun _ _ hw hpc hd => step_of_decoded hw (State.fetchMisaligned_eq_false_iff.2 hpc) hd

end Sys2Proof.Machine
end

section
/-! Where control goes: the jumps, the call stack, the skips and `EXIT` (40_control_flow.md R200 to R210). -/

namespace Sys2Proof.Machine

/-- The zero extension of an address keeps its number (R202). -/
@[simp] theorem toNat_zextAddr (nnn : Addr12) : (zextAddr nnn).toNat = nnn.toNat :=
  BitVec.toNat_setWidth_of_le (by decide)

/-- The zero extension of a byte keeps its number (R209). -/
@[simp] theorem toNat_zextByte (v : Byte) : (zextByte v).toNat = v.toNat :=
  BitVec.toNat_setWidth_of_le (by decide)

/-- Settles O28: `JP` is one update of `pc`. -/
theorem jpSetsPc : Obligations.JpSetsPc := fun nnn _ => ⟨_, rfl, toNat_zextAddr nnn, rfl⟩

/-- Settles O29: `CALL` writes the entry at the old `sp`; `RET` reads the entry at the new one. -/
theorem callPushesAndRetPops : Obligations.CallPushesAndRetPops := fun nnn s =>
  ⟨⟨_, rfl, BitVec.toNat_add .., toNat_zextAddr nnn, fun k => State.stackEntry_setStackEntry s s.sp k s.pc, rfl⟩,
    ⟨_, rfl, by rw [BitVec.toNat_sub, Nat.add_comm]; rfl, rfl, rfl⟩⟩

/-- An operation that only skips, told by the number `n` that it adds to `pc` (R200). -/
theorem exec_of_skipIf {i : Instr} {s : State} {p : Bool} {n : Nat} (h : exec i s = .next (s.skipIf p))
    (hn : n = if p then 2 else 0) :
    ∃ t, exec i s = .next t ∧ t = { s with pc := t.pc } ∧ t.pc.toNat = (s.pc.toNat + n) % 65536 := by
  refine ⟨_, h, State.skipIf_frame s p, ?_⟩
  rw [State.skipIf_pc, hn]
  cases p with
  | true => exact BitVec.toNat_add ..
  | false => exact (Nat.mod_eq_of_lt s.pc.isLt).symm

/-- Settles O30: each compare is a `skipIf`, and bytes are equal where their numbers are. -/
theorem conditionalSkips : Obligations.ConditionalSkips := by
  intro x y nn s
  refine ⟨exec_of_skipIf rfl ?_, exec_of_skipIf rfl ?_, exec_of_skipIf rfl ?_, exec_of_skipIf rfl ?_⟩ <;>
    simp [Claims.reg, BitVec.toNat_inj]

/-- The quirk's condition decides between `V0` and the register that the top nibble of `nnn` names (R209). -/
theorem jumpRegister_eq (c : Config) (nnn : Addr12) :
    jumpRegister c nnn =
      if c.variant = .chip8 ∨ c.jumpQuirk = .v0 then 0 else BitVec.ofNat 4 (nnn.toNat / 256) := by
  have top_nibble : nnn.extractLsb' 8 4 = BitVec.ofNat 4 (nnn.toNat / 256) := by
    rw [BitVec.extractLsb', Nat.shiftRight_eq_div_pow]
  rw [jumpRegister, top_nibble]
  cases c.variant <;> cases c.jumpQuirk <;> rfl

/-- Settles O31: the largest sum is `0xFFF + 0xFF`, so it does not wrap. -/
theorem jpV0AddsTheQuirkRegister : Obligations.JpV0AddsTheQuirkRegister := by
  intro nnn s
  refine ⟨_, rfl, rfl, ?_⟩
  have no_wrap : nnn.toNat + (s.reg (jumpRegister s.config nnn)).toNat < 2 ^ 16 := by omega
  calc (zextAddr nnn + zextByte (s.reg (jumpRegister s.config nnn))).toNat
      = nnn.toNat + Claims.reg s (jumpRegister s.config nnn) := by
        rw [BitVec.toNat_add, toNat_zextAddr, toNat_zextByte, Nat.mod_eq_of_lt no_wrap, Claims.reg]
    _ = _ := by rw [jumpRegister_eq, apply_ite (Claims.reg s)]

/-- Settles O32: `EXIT` is one update of `finished`. -/
theorem exitSetsFinished : Obligations.ExitSetsFinished := fun _ => rfl

end Sys2Proof.Machine
end

section
/-! Register operations: the loads, the bitwise and arithmetic operations, the shifts and `RND`
(41_register_ops.md R250 to R265). -/

namespace Sys2Proof.Machine

/-! ### The operations that write one register -/

theorem claimsReg_setReg (s : State) (x r : Nibble) (v : Byte) :
    Claims.reg (s.setReg x v) r = if r = x then v.toNat else Claims.reg s r := by
  rw [Claims.reg, State.reg_setReg, apply_ite BitVec.toNat, Claims.reg]

theorem getLsbD_reg_setReg (s : State) (x r : Nibble) (v : Byte) (b : Nat) :
    ((s.setReg x v).reg r).getLsbD b = if r = x then v.getLsbD b else (s.reg r).getLsbD b := by
  rw [State.reg_setReg, apply_ite (BitVec.getLsbD · b)]

/-- Settles O33: each operation is one `setReg`, and byte addition is addition modulo 256. -/
theorem loadAddImmediateAndCopy : Obligations.LoadAddImmediateAndCopy := fun x y nn s =>
  ⟨⟨_, rfl, rfl, fun r => claimsReg_setReg s x r nn⟩,
    ⟨_, rfl, rfl, fun r => (claimsReg_setReg s x r _).trans (by rw [BitVec.toNat_add]; rfl)⟩,
    ⟨_, rfl, rfl, fun r => claimsReg_setReg s x r (s.reg y)⟩⟩

/-- Settles O34: each operation is one `setReg` of a bitwise combination. -/
theorem logicalOperations : Obligations.LogicalOperations := fun x y s =>
  ⟨⟨_, rfl, rfl, fun r b => by rw [getLsbD_reg_setReg, BitVec.getLsbD_or]⟩,
    ⟨_, rfl, rfl, fun r b => by rw [getLsbD_reg_setReg, BitVec.getLsbD_and]⟩,
    ⟨_, rfl, rfl, fun r b => by rw [getLsbD_reg_setReg, BitVec.getLsbD_xor]⟩⟩

/-! ### Flags and results as numbers -/

/-- The number function `g` says what the byte function `f` computes. -/
def Computes (f : Byte → Byte → Byte) (g : Nat → Nat → Nat) : Prop :=
  ∀ a b, (f a b).toNat = g a.toNat b.toNat

theorem toNat_flagByte (p : Bool) : (flagByte p).toNat = if p then 1 else 0 := by cases p <;> rfl

theorem addFlag_computes : Computes addFlag (fun a b => if a + b > 255 then 1 else 0) := by
  intro a b
  have carry_iff : b.toNat > 0xFF - a.toNat ↔ a.toNat + b.toNat > 255 := by omega
  simp only [addFlag, toNat_flagByte, decide_eq_true_eq, carry_iff]

theorem addResult_computes : Computes addResult (fun a b => (a + b) % 256) := BitVec.toNat_add

theorem subFlag_computes : Computes subFlag (fun a b => if a ≥ b then 1 else 0) := fun a b => by
  simp only [subFlag, toNat_flagByte, decide_eq_true_eq]

theorem subResult_computes : Computes subResult (fun a b => (a + 256 - b) % 256) := by
  intro a b
  rw [subResult, BitVec.toNat_sub]
  congr 1
  omega

theorem subnFlag_computes : Computes subnFlag (fun a b => if a > b then 0 else 1) := by
  intro a b
  by_cases borrow : a.toNat > b.toNat <;> simp [subnFlag, toNat_flagByte, borrow]

theorem subnResult_computes : Computes subnResult (fun a b => (b + 256 - a) % 256) := fun a b => subResult_computes b a

theorem shrFlag_computes : Computes shrFlag (fun a _ => a % 2) := by
  intro a _
  have low_bit : a.getLsbD 0 = decide (a.toNat % 2 = 1) := by
    rw [BitVec.getLsbD, Nat.testBit_zero]
  rw [shrFlag, toNat_flagByte, low_bit]
  rcases Nat.mod_two_eq_zero_or_one a.toNat with h | h <;> simp [h]

theorem shrResult_computes : Computes shrResult (fun a _ => a / 2) := fun a _ => by
  rw [shrResult, BitVec.toNat_ushiftRight, Nat.shiftRight_eq_div_pow, pow_one]

theorem shlFlag_computes : Computes shlFlag (fun a _ => a / 128) := by
  intro a _
  have top_bit : a.getLsbD 7 = decide (a.toNat / 128 = 1) := by
    rw [BitVec.getLsbD, Nat.testBit_eq_decide_div_mod_eq]
    congr 2
    omega
  have below_two : a.toNat / 128 = 0 ∨ a.toNat / 128 = 1 := by omega
  rw [shlFlag, toNat_flagByte, top_bit]
  rcases below_two with h | h <;> simp [h]

theorem shlResult_computes : Computes shlResult (fun a _ => 2 * a % 256) := fun a _ => by
  rw [shlResult, BitVec.toNat_shiftLeft, Nat.shiftLeft_eq, pow_one, Nat.mul_comm]

/-! ### `FlagOp` in the spec's numbers (R251) -/

/-- `FlagOp` over byte functions leaves the registers that the spec's rule gives for their numbers, in either write order. -/
theorem flaggedRegs_flagOp (x s1 s2 : Nibble) {flag result : Byte → Byte → Byte} {flagNat resultNat : Nat → Nat → Nat}
    (s : State) (hflag : Computes flag flagNat) (hresult : Computes result resultNat) :
    Claims.FlaggedRegs s (flagOp x s1 s2 flag result s) x s1 s2 flagNat resultNat := by
  unfold Claims.FlaggedRegs
  split
  next order =>
    intro r
    rw [Claims.reg, reg_flagOp_flagFirst x s1 s2 r flag result s order]
    simp only [apply_ite BitVec.toNat, hflag _ _, hresult _ _]
    rfl
  next order =>
    intro r
    rw [Claims.reg, reg_flagOp_flagLast x s1 s2 r flag result s order]
    simp only [apply_ite BitVec.toNat, hflag _ _, hresult _ _]
    rfl

/-- An operation that is a `FlagOp` completes, changes the registers only, and leaves them as the rule says. -/
theorem exec_of_flagOp {i : Instr} {x s1 s2 : Nibble} {flag result : Byte → Byte → Byte}
    {flagNat resultNat : Nat → Nat → Nat} {s : State} (h : exec i s = .next (flagOp x s1 s2 flag result s))
    (hflag : Computes flag flagNat) (hresult : Computes result resultNat) :
    ∃ t, exec i s = .next t ∧ t = { s with V := t.V } ∧ Claims.FlaggedRegs s t x s1 s2 flagNat resultNat :=
  ⟨_, h, flagOp_V .., flaggedRegs_flagOp x s1 s2 s hflag hresult⟩

/-- Settles O35: the three operations are `FlagOp`s of the carry and borrow flags and of the sum and the differences. -/
theorem addAndSubtractWithFlag : Obligations.AddAndSubtractWithFlag := fun _ _ _ =>
  ⟨exec_of_flagOp rfl addFlag_computes addResult_computes,
    exec_of_flagOp rfl subFlag_computes subResult_computes,
    exec_of_flagOp rfl subnFlag_computes subnResult_computes⟩

theorem shiftSource_eq_shiftFrom (s : State) (x y : Nibble) : shiftSource s.config x y = Claims.shiftFrom s x y := by
  unfold shiftSource Claims.shiftFrom
  cases s.config.variant <;> rfl

/-- Settles O36: the shifts are `FlagOp`s of the variant's source register. -/
theorem shiftsFromTheVariantsSource : Obligations.ShiftsFromTheVariantsSource := by
  intro x y s
  rw [← shiftSource_eq_shiftFrom]
  exact ⟨exec_of_flagOp rfl shrFlag_computes shrResult_computes, exec_of_flagOp rfl shlFlag_computes shlResult_computes⟩

/-! ### `RND` (R265) -/

theorem exec_rnd (x : Nibble) (nn : Byte) (s : State) :
    exec (.rnd x nn) s = .next (s.takeByte.setReg x (s.drawnByte &&& nn)) := rfl

/-- Settles O37: `RND` takes the first queued draw, so two bytes queued in a row are drawn in a row. -/
theorem rndMasksAnyDrawnByte : Obligations.RndMasksAnyDrawnByte := fun x nn s =>
  ⟨⟨_, exec_rnd x nn s, rfl, State.takeByte_inputs s, fun r => State.reg_setReg s.takeByte x r _⟩, fun b c =>
    ⟨{ s.inputs with randomBytes := [b, c] }, _, _, exec_rnd x nn _, (State.reg_setReg _ x x _).trans (if_pos rfl),
      exec_rnd x nn _, (State.reg_setReg _ x x _).trans (if_pos rfl)⟩⟩

end Sys2Proof.Machine
end

section
/-! Index and memory operations: `I` loaded and added to, registers and flag registers stored and loaded, the audio pattern
(42_index_memory_ops.md R300 to R314). -/

namespace Sys2Proof.Machine

/-! ### The operations that write `I` (R300 to R303) -/

/-- The low nibble of a byte is the byte modulo 16 (92_eei_decisions.md D17). -/
theorem glyphIndex_eq_mod (v : Byte) : glyphIndex v = v.toNat % 16 :=
  (BitVec.toNat_and v 0xF).trans (Nat.and_two_pow_sub_one_eq_mod v.toNat 4)

theorem toNat_lowGlyphAddress (c : Config) (v : Byte) :
    (lowGlyphAddress c v).toNat = (c.lowFontBase + 5 * (v.toNat % 16)) % 65536 := by
  rw [lowGlyphAddress, BitVec.toNat_ofNat, glyphIndex_eq_mod]

theorem toNat_highGlyphAddress (c : Config) (v : Byte) :
    (highGlyphAddress c v).toNat = (c.highFontBase + 10 * (v.toNat % 16)) % 65536 := by
  rw [highGlyphAddress, BitVec.toNat_ofNat, glyphIndex_eq_mod]

/-- Settles O38: each operation is one update of `I`, and a glyph's address is its font's base and the low nibble's offset. -/
theorem indexLoads : Obligations.IndexLoads := fun nnn x s =>
  ⟨⟨_, rfl, rfl, toNat_zextAddr nnn⟩, ⟨_, rfl, rfl, toNat_lowGlyphAddress s.config (s.reg x)⟩,
    ⟨_, rfl, rfl, toNat_highGlyphAddress s.config (s.reg x)⟩⟩

theorem toNat_indexFlag (i : Word) (v : Byte) : (indexFlag i v).toNat = if i.toNat + v.toNat > 0xFFF then 1 else 0 := by
  simp only [indexFlag, toNat_flagByte, decide_eq_true_eq]

/-- `VF` is the range flag in either write order, and no other register changes. -/
theorem reg_addIndexOp (x r : Nibble) (s : State) :
    (addIndexOp x s).reg r = if r = vf then indexFlag s.I (s.reg x) else s.reg r := by
  unfold addIndexOp
  split <;> exact State.reg_setReg ..

/-- Under FlagFirst with `x = 0xF` the register added is the new flag (92_eei_decisions.md D3). -/
theorem addIndexOp_I (x : Nibble) (s : State) :
    (addIndexOp x s).I =
      s.I + zextByte (if x = vf ∧ s.config.flagWriteOrder = .flagFirst then indexFlag s.I (s.reg x) else s.reg x) := by
  unfold addIndexOp
  split <;> simp [*]

/-- Settles O39: the register part and the `I` part of `ADD I,Vx`, read as numbers. -/
theorem addIndexWithRangeFlag : Obligations.AddIndexWithRangeFlag := by
  intro x s
  refine ⟨_, rfl, addIndexOp_I_V x s, fun r => ?_, ?_⟩
  · rw [Claims.reg, reg_addIndexOp, apply_ite BitVec.toNat, toNat_indexFlag]
    rfl
  · rw [addIndexOp_I, BitVec.toNat_add, toNat_zextByte, apply_ite BitVec.toNat, toNat_indexFlag]
    rfl

/-! ### Bytes stored from `I` on (R304, R307, R311) -/

/-- Two addresses are one byte of the space where `Addr` reduces them to one (20_memory.md R82). -/
theorem sameByte_iff_addr_eq {s : State} {a b : Nat} : Claims.SameByte s a b ↔ addr s.config a = addr s.config b := by
  unfold Claims.SameByte addr
  cases s.config.addressWrap <;> exact Iff.rfl

/-- A store leaves its bytes from `I` on and every other byte as before (R83). -/
theorem storedAtI_storeBytes {n : Nat} {v : Nat → Byte} {w : Nat → Nat} (s : State) (hv : ∀ k < n, (v k).toNat = w k) :
    Claims.StoredAtI s (storeBytes n v s) n w := by
  simp only [Claims.StoredAtI, sameByte_iff_addr_eq]
  refine ⟨fun a k hk hak hlast => ?_, fun a ha => readByte_storeBytes_of_ne v ha⟩
  obtain ⟨-, -, hwritten⟩ := readByte_forUpTo_write n s.indexed v s a
  have hread : (storeBytes n v s).readByte a = v k := hwritten k hk hak (fun j hj hkj => hlast j hkj hj)
  rw [hread, hv k hk]

theorem toNat_decimalDigit (b : Byte) {k : Nat} (hk : k < 3) :
    (decimalDigit b k).toNat = if k = 0 then b.toNat / 100 else if k = 1 then b.toNat / 10 % 10 else b.toNat % 10 := by
  have := b.isLt
  match k, hk with
  | 0, _ => exact Nat.mod_eq_of_lt (by omega)
  | 1, _ => exact Nat.mod_eq_of_lt (by omega)
  | 2, _ => exact Nat.mod_eq_of_lt (by omega)

/-- Settles O40: `LD B,Vx` stores the three decimal digits. -/
theorem decimalDigitsAreStored : Obligations.DecimalDigitsAreStored := fun x s =>
  ⟨_, exec_ldB x s, storeBytes_memory .., storedAtI_storeBytes s (fun _ hk => toNat_decimalDigit (s.reg x) hk)⟩

/-- `I` after a register save or load: counted on by `x + 1` where the increment rule holds (R305; 90_conflicts.md C1). -/
theorem toNat_bumpI_I (s : State) (x : Nibble) : (s.bumpI x).I.toNat = Claims.indexAfter s x := by
  have step_size : (x.setWidth 16 + 1).toNat = x.toNat + 1 := by
    rw [BitVec.toNat_add, BitVec.toNat_setWidth_of_le (by decide)]
    exact Nat.mod_eq_of_lt (a := x.toNat + 1) (by omega)
  have rule : incI s.config = true ↔ s.config.variant = .chip8 ∧ s.config.compatibilityMode = false := by
    simp [incI]
  rw [State.bumpI_I, Claims.indexAfter, apply_ite BitVec.toNat, BitVec.toNat_add, step_size, ← Nat.add_assoc]
  simp only [rule]

/-- The index increment changes no byte of memory. -/
theorem storedAtI_bumpI {s t : State} {n : Nat} {w : Nat → Nat} (x : Nibble) (h : Claims.StoredAtI s t n w) :
    Claims.StoredAtI s (t.bumpI x) n w := by
  simpa only [Claims.StoredAtI, State.readByte_bumpI] using h

/-- Settles O41: `LD [I],Vx` stores `V[0]` to `V[x]`, and its frame says what `I` becomes. -/
theorem registerSave : Obligations.RegisterSave := by
  intro x s
  have hexec := exec_ldMemVx x s
  have hframe := exec_frame hexec
  have hI := congrArg State.I hframe
  exact ⟨_, hexec, by rw [hI]; exact hframe, storedAtI_bumpI x (storedAtI_storeBytes s (fun _ _ => rfl)),
    (congrArg BitVec.toNat hI).trans (toNat_bumpI_I s x)⟩

/-! ### Loops that fill registers from the first one on (R308, R309, R310) -/

theorem eq_ofNat_iff {w k : Nat} {r : BitVec w} (hk : k < 2 ^ w) : r = BitVec.ofNat w k ↔ r.toNat = k := by
  rw [← BitVec.toNat_inj, BitVec.toNat_ofNat, Nat.mod_eq_of_lt hk]

/-- `file k` is a register file after `k` iterations of a loop whose iteration `k` writes `v k` to the register numbered `k` and to
no other: after `m + 1` iterations the registers up to `m` are filled. -/
theorem registers_filled {w m : Nat} {file : Nat → BitVec w → Byte} {v : Nat → Byte}
    (hstep : ∀ k r, file (k + 1) r = if r = BitVec.ofNat w k then v k else file k r) (hm : m < 2 ^ w) (r : BitVec w) :
    file (m + 1) r = if r.toNat ≤ m then v r.toNat else file 0 r := by
  induction m with
  | zero =>
    simp only [hstep, eq_ofNat_iff hm]
    by_cases hr : r.toNat = 0 <;> simp [hr]
  | succ m ih =>
    simp only [hstep (m + 1), eq_ofNat_iff hm, ih (Nat.lt_of_succ_lt hm)]
    by_cases hr : r.toNat = m + 1
    · simp [hr]
    · have hle : r.toNat ≤ m + 1 ↔ r.toNat ≤ m := by omega
      simp [hr, hle]

theorem exec_ldVxMem (x : Nibble) (s : State) :
    exec (.ldVxMem x) s = .next ((loadRegs (x.toNat + 1) (BitVec.ofNat 4) s).bumpI x) := rfl

/-- A load of `V[0]` to `V[x]`, register by register. -/
theorem reg_loadRegs_ofNat (x r : Nibble) (s : State) :
    (loadRegs (x.toNat + 1) (BitVec.ofNat 4) s).reg r =
      if r.toNat ≤ x.toNat then s.readByte (s.indexed r.toNat) else s.reg r :=
  registers_filled (file := fun k => (loadRegs k (BitVec.ofNat 4) s).reg) (v := fun k => s.readByte (s.indexed k))
    (fun k r => by rw [loadRegs_succ, State.reg_setReg]) x.isLt r

/-- Settles O42: `LD Vx,[I]` loads `V[0]` to `V[x]`, and its frame says what `I` becomes. -/
theorem registerLoad : Obligations.RegisterLoad := by
  intro x s
  have hexec := exec_ldVxMem x s
  have hframe := exec_frame hexec
  have hI := congrArg State.I hframe
  exact ⟨_, hexec, by rw [hI]; exact hframe,
    fun r => (State.reg_congr (State.bumpI_V ..) r).trans (reg_loadRegs_ofNat x r s),
    (congrArg BitVec.toNat hI).trans (toNat_bumpI_I s x)⟩

/-- `R[k] <- V[k]` for `k` below `n`, ascending (R309). -/
def saveFlagRegs (n : Nat) (s : State) : State :=
  forUpTo n (fun k t => t.setFlagReg (BitVec.ofNat 3 k) (t.reg (BitVec.ofNat 4 k))) s

/-- `V[k] <- R[k]` for `k` below `n`, ascending (R310). -/
def loadFlagRegs (n : Nat) (s : State) : State :=
  forUpTo n (fun k t => t.setReg (BitVec.ofNat 4 k) (t.flagReg (BitVec.ofNat 3 k))) s

theorem exec_ldRVx_of_le {x : Nibble} (s : State) (hx : x.toNat ≤ 7) :
    exec (.ldRVx x) s = .next (saveFlagRegs (x.toNat + 1) s) :=
  (exec_ldRVx x s).trans (if_neg (Nat.not_lt.2 hx))

theorem exec_ldVxR_of_le {x : Nibble} (s : State) (hx : x.toNat ≤ 7) :
    exec (.ldVxR x) s = .next (loadFlagRegs (x.toNat + 1) s) :=
  (exec_ldVxR x s).trans (if_neg (Nat.not_lt.2 hx))

/-- A save reads the general registers as they were. -/
theorem saveFlagRegs_succ (n : Nat) (s : State) :
    saveFlagRegs (n + 1) s = (saveFlagRegs n s).setFlagReg (BitVec.ofNat 3 n) (s.reg (BitVec.ofNat 4 n)) := by
  have hV : (saveFlagRegs n s).V = s.V := forUpTo_keeps State.V n _ s (fun _ _ => rfl)
  rw [← State.reg_congr hV]
  rfl

/-- A load reads the flag registers as they were. -/
theorem loadFlagRegs_succ (n : Nat) (s : State) :
    loadFlagRegs (n + 1) s = (loadFlagRegs n s).setReg (BitVec.ofNat 4 n) (s.flagReg (BitVec.ofNat 3 n)) := by
  have hR : (loadFlagRegs n s).R = s.R := forUpTo_keeps State.R n _ s (fun _ _ => rfl)
  rw [← State.flagReg_congr hR]
  rfl

theorem flagReg_saveFlagRegs {m : Nat} (hm : m ≤ 7) (s : State) (k : BitVec 3) :
    (saveFlagRegs (m + 1) s).flagReg k = if k.toNat ≤ m then s.reg (k.setWidth 4) else s.flagReg k := by
  rw [← BitVec.ofNat_toNat]
  exact registers_filled (file := fun j => (saveFlagRegs j s).flagReg) (v := fun j => s.reg (BitVec.ofNat 4 j))
    (fun j k => by rw [saveFlagRegs_succ, State.flagReg_setFlagReg]) (Nat.lt_succ_of_le hm) k

theorem reg_loadFlagRegs {m : Nat} (hm : m ≤ 7) (s : State) (r : Nibble) :
    (loadFlagRegs (m + 1) s).reg r = if r.toNat ≤ m then s.flagReg (r.setWidth 3) else s.reg r := by
  rw [← BitVec.ofNat_toNat]
  exact registers_filled (file := fun j => (loadFlagRegs j s).reg) (v := fun j => s.flagReg (BitVec.ofNat 3 j))
    (fun j r => by rw [loadFlagRegs_succ, State.reg_setReg]) (by omega) r

/-- Settles O43: with the index in range both are copy loops, and each operation's frame names one field. -/
theorem flagRegistersSaveAndLoad : Obligations.FlagRegistersSaveAndLoad := fun _ s hx =>
  ⟨⟨_, exec_ldRVx_of_le s hx, exec_frame (exec_ldRVx_of_le s hx), flagReg_saveFlagRegs hx s⟩,
    ⟨_, exec_ldVxR_of_le s hx, exec_frame (exec_ldVxR_of_le s hx), reg_loadFlagRegs hx s⟩⟩

/-- Settles O44: the index is checked first, and the fetch address is 2 before the advanced `pc`. -/
theorem flagRegisterIndexFaults : Obligations.FlagRegisterIndexFaults := fun x s hx =>
  ⟨(exec_ldRVx x s).trans (if_pos hx), (exec_ldVxR x s).trans (if_pos hx)⟩

/-! ### Register ranges (R311, R312) -/

/-- Settles O45: `SAVE` is one `storeBytes` of the range's registers; `LOAD` writes each register of the range once, and they lie
between its ends. -/
theorem rangeSaveAndLoad : Obligations.RangeSaveAndLoad := by
  intro x y s
  obtain ⟨hin, hout⟩ := reg_loadRegs (rangeDistance x y + 1) (rangeRegister x y) s
    (fun j hj k hk => rangeRegister_injective (Nat.le_of_lt_succ hj) (Nat.le_of_lt_succ hk))
  refine ⟨⟨_, exec_save x y s, storeBytes_memory .., storedAtI_storeBytes s (fun k hk => ?_)⟩,
    ⟨_, rfl, loadRegs_V .., fun k hk => ?_, fun r hr => hout r (fun k hk => ?_)⟩⟩
  · rw [rangeReg_eq_rangeRegister (Nat.le_of_lt_succ hk), Claims.reg]
  · rw [rangeReg_eq_rangeRegister (Nat.le_of_lt_succ hk)]
    exact hin k hk
  · rintro rfl
    have := rangeRegister_mem (Nat.le_of_lt_succ hk)
    omega

/-! ### The long load of `I` (R313) and the audio pattern (R314) -/

theorem exec_ldILong (s : State) :
    exec .ldILong s = .next { s with I := s.readWord s.pc.toNat, pc := s.pc + 2 } := rfl

/-- Settles O46: the step on 0xF000 runs the operation from the advanced `pc`, which the operation advances once more. -/
theorem longIndexLoad : Obligations.LongIndexLoad := by
  refine ⟨fun s => ⟨_, exec_ldILong s, rfl, rfl, BitVec.toNat_add ..⟩, fun s hv hw hpc hword => ?_⟩
  have hdecode : decode s.config.variant s.fetchWord = .ok .ldILong := by
    rw [hv]
    exact decode_xochip_of_xoLayer (congrArg xoLayer hword)
  have hstep := step_of_decoded hw (State.fetchMisaligned_eq_false_iff.2 hpc) hdecode
  have hadvanced : s.advancePc.pc.toNat = (s.pc.toNat + 2) % 65536 := BitVec.toNat_add ..
  refine ⟨_, hstep.trans (exec_ldILong _), ?_, ?_⟩
  · rw [BitVec.toNat_add, hadvanced, Nat.mod_add_mod]; rfl
  · rw [← hadvanced]; rfl

/-- Settles O47: `AUDIO` is one update of the pattern. -/
theorem audioStoresThePattern : Obligations.AudioStoresThePattern := fun _ =>
  ⟨_, rfl, rfl, fun _ => Vector.getElem_ofFn ..⟩

end Sys2Proof.Machine
end

section
/-! Timer and keyboard operations: the timers and the edges of `ST`, the key queries, the key-wait
(43_timer_key_ops.md R350 to R358). -/

namespace Sys2Proof.Machine

/-! ### The delay timer (R350, R351) -/

/-- Settles O48: the read is one `setReg`, the write one update of `DT`. -/
theorem delayTimerReadAndSet : Obligations.DelayTimerReadAndSet := fun x s =>
  ⟨⟨_, rfl, rfl, fun r => claimsReg_setReg s x r s.DT⟩, ⟨_, rfl, rfl, rfl⟩⟩

/-! ### Edges of the sound timer (R358) -/

/-- What is emitted when `ST` goes from `a` to `b`: the edge across zero, if there is one (R358). -/
def edgeEvents (a b : Byte) : List Event :=
  if a = 0#8 ∧ b ≠ 0#8 then [.beepStart] else if a ≠ 0#8 ∧ b = 0#8 then [.beepStop] else []

@[simp] theorem edgeEvents_self (a : Byte) : edgeEvents a a = [] := by
  by_cases ha : a = 0#8 <;> simp [edgeEvents, ha]

theorem beepStart_mem_edgeEvents {a b : Byte} : .beepStart ∈ edgeEvents a b ↔ a = 0 ∧ b ≠ 0 := by
  by_cases ha : a = 0#8 <;> by_cases hb : b = 0#8 <;> simp [edgeEvents, ha, hb]

theorem beepStop_mem_edgeEvents {a b : Byte} : .beepStop ∈ edgeEvents a b ↔ a ≠ 0 ∧ b = 0 := by
  by_cases ha : a = 0#8 <;> by_cases hb : b = 0#8 <;> simp [edgeEvents, ha, hb]

/-- The two conditional emits of `LD ST,Vx` are one edge (R352). -/
theorem exec_ldStVx (x : Nibble) (s : State) :
    exec (.ldStVx x) s = .next { s with ST := s.reg x, events := s.events ++ edgeEvents s.ST (s.reg x) } := by
  show Host.Outcome.next _ = _
  rw [State.emitIf_frame, State.emitIf_frame { s with ST := s.reg x }]
  by_cases ha : s.ST = 0#8 <;> by_cases hb : s.reg x = 0#8 <;> simp [edgeEvents, ha, hb]

/-- The edge in numbers. -/
theorem edgeEvents_eq_toNat (a b : Byte) :
    edgeEvents a b =
      if a.toNat = 0 ∧ b.toNat ≠ 0 then [.beepStart] else if a.toNat ≠ 0 ∧ b.toNat = 0 then [.beepStop] else [] := by
  simp only [edgeEvents, ne_eq, ← BitVec.toNat_inj]
  rfl

/-- Settles O49: `LD ST,Vx` emits the edge from the old `ST` to `V[x]`. -/
theorem soundTimerSet : Obligations.SoundTimerSet := fun x s =>
  ⟨_, exec_ldStVx x s, rfl, rfl, congrArg (s.events ++ ·) (edgeEvents_eq_toNat s.ST (s.reg x))⟩

/-! ### The timer tick (R357) -/

theorem toNat_tick (t : Byte) : (tick t).toNat = t.toNat - 1 := by
  unfold tick
  split
  · simp [*]
  · bv_omega

/-- A count makes an edge exactly if it is the one from 1. -/
theorem edgeEvents_tick (t : Byte) : edgeEvents t (tick t) = if t.toNat = 1 then [.beepStop] else [] := by
  rw [edgeEvents_eq_toNat, toNat_tick, if_neg (by omega)]
  exact if_congr (by omega) rfl rfl

/-- A timer tick counts both timers and emits the edge of `ST`. -/
theorem updateTimers_eq_tick (s : State) :
    updateTimers s =
      { s with DT := tick s.DT, ST := tick s.ST, events := s.events ++ edgeEvents s.ST (tick s.ST) } := by
  rw [edgeEvents_tick, updateTimers, State.emitIf_frame, State.emitIf_events]
  by_cases h : s.ST = 1#8
  · simp [h]
  · have : s.ST.toNat ≠ 1 := fun h' => h (BitVec.eq_of_toNat_eq h')
    simp [h, this]

/-- Settles O22: a tick counts both timers and emits the edge of `ST`. -/
theorem updateTimersCountsDown : Obligations.UpdateTimersCountsDown := by
  intro s
  refine ⟨updateTimers s, rfl, ?_⟩
  rw [updateTimers_eq_tick]
  exact ⟨toNat_tick _, toNat_tick _, congrArg (s.events ++ ·) (edgeEvents_tick s.ST), rfl⟩

/-! ### Beep events over a call (R358) -/

/-- From `s` to `t` the event output grows by the edge of `ST`, and after it by what is no beep. -/
def AddsEdgeEvents (s t : State) : Prop :=
  ∃ l, t.events = s.events ++ (edgeEvents s.ST t.ST ++ l) ∧ .beepStart ∉ l ∧ .beepStop ∉ l

/-- `LD ST,Vx` adds the edge, a resolution switch its own event, and every other operation leaves `ST` and the events. -/
theorem exec_addsEdgeEvents {i : Instr} {s t : State} (h : exec i s = .next t) : AddsEdgeEvents s t := by
  cases i with
  | ldStVx x =>
    cases (exec_ldStVx x s).symm.trans h
    exact ⟨[], by simp⟩
  | low => cases h; exact ⟨[.lowResolutionConfigured], by rw [setResolution_eq]; simp [resolutionEvent]⟩
  | high => cases h; exact ⟨[.highResolutionConfigured], by rw [setResolution_eq]; simp [resolutionEvent]⟩
  | _ => rw [exec_frame h]; exact ⟨[], by simp [framed]⟩

theorem step_addsEdgeEvents {s t : State} (h : step s = .next t) : AddsEdgeEvents s t := by
  obtain ⟨-, he⟩ | ⟨-, -, he⟩ | ⟨i, -, -, -, he⟩ | ⟨e, -, -, -, he⟩ := step_cases s
  · cases he.symm.trans h
    rw [resolveKeyWait_eq]
    exact ⟨[], by simp⟩
  · cases he.symm.trans h
  · exact exec_addsEdgeEvents (s := s.advancePc) (he.symm.trans h)
  · cases he.symm.trans h

theorem updateTimers_addsEdgeEvents (s : State) : AddsEdgeEvents s (updateTimers s) := by
  rw [updateTimers_eq_tick]
  exact ⟨[], by simp⟩

/-- The beeps among the events that such a call raised are the ones of R358. -/
theorem AddsEdgeEvents.beeps {s t : State} (h : AddsEdgeEvents s t) :
    (.beepStart ∈ eventsRaised s t ↔ s.ST = 0 ∧ t.ST ≠ 0) ∧ (.beepStop ∈ eventsRaised s t ↔ s.ST ≠ 0 ∧ t.ST = 0) := by
  obtain ⟨l, hl, hstart, hstop⟩ := h
  have raised : eventsRaised s t = edgeEvents s.ST t.ST ++ l := by rw [eventsRaised, hl, List.drop_left]
  rw [raised, List.mem_append, List.mem_append, or_iff_left hstart, or_iff_left hstop]
  exact ⟨beepStart_mem_edgeEvents, beepStop_mem_edgeEvents⟩

/-- Settles O16: a step and a tick add the edge of `ST` and no other beep, and a tick never takes `ST` away from 0. -/
theorem beepEventsAreTheEdgesOfST : Obligations.BeepEventsAreTheEdgesOfST := by
  refine ⟨fun s t h => (step_addsEdgeEvents h).beeps, fun s => ?_⟩
  obtain ⟨hstart, hstop⟩ := (updateTimers_addsEdgeEvents s).beeps
  refine ⟨fun hmem => ?_, hstop⟩
  obtain ⟨hzero, hleft⟩ := hstart.1 hmem
  rw [updateTimers_eq_tick] at hleft
  exact hleft (congrArg tick hzero)

/-! ### The host's calls and the invariant (R357; 70_reset_and_hazards.md R550, R555) -/

/-- `Initialise()` gives the invariant from any state: no clause speaks of the events or the draws, which it keeps. -/
theorem initialiseCall_inv (s : State) : Inv (initialiseCall s) :=
  (inv_iff _).2 ((inv_iff (State.initialise s.config)).1 (initialise_inv s.config))

/-- Settles O18: a tick writes no field of the invariant, `Initialise()` re-establishes it, and a load writes memory in canonical
form. -/
theorem hostCallsKeepTheInvariant : Obligations.HostCallsKeepTheInvariant := by
  intro s hs
  obtain ⟨hmem, hrest⟩ := (inv_iff s).1 hs
  refine ⟨?_, ⟨initialiseCall_inv s, initialiseCall_config s⟩, fun rom t h => ?_⟩
  · rw [updateTimers_eq]
    exact ⟨(inv_iff _).2 ⟨hmem, hrest⟩, rfl⟩
  · have hloaded := loadRom_wf h hmem
    rw [loadRom_eq h] at hloaded ⊢
    exact ⟨(inv_iff _).2 ⟨hloaded, hrest⟩, rfl⟩

/-! ### The key queries (R353, R354) -/

theorem toNat_skipIf_pc (s : State) {p : Bool} {n : Nat} (hn : n = if p then 2 else 0) :
    (s.skipIf p).pc.toNat = (s.pc.toNat + n) % 65536 := by
  rw [State.skipIf_pc, hn]
  cases p with
  | true => exact BitVec.toNat_add ..
  | false => exact (Nat.mod_eq_of_lt s.pc.isLt).symm

/-- An operation that takes one draw of the key queries and then only skips, told by the number `n` that it adds to `pc`. -/
theorem exec_of_takeKeyAnswer_skipIf {i : Instr} {s : State} {p : Bool} {n : Nat}
    (h : exec i s = .next (s.takeKeyAnswer.skipIf p)) (hn : n = if p then 2 else 0) :
    ∃ t, exec i s = .next t ∧ t = { s with pc := t.pc, inputs := t.inputs } ∧
      t.inputs = { s.inputs with keyAnswers := s.inputs.keyAnswers.tail, taken := s.inputs.taken + 1 } ∧
      t.pc.toNat = (s.pc.toNat + n) % 65536 :=
  ⟨_, h, by rw [State.skipIf_frame]; rfl, State.skipIf_inputs .., toNat_skipIf_pc s.takeKeyAnswer hn⟩

/-- The first queued answer is the answer, whatever key is asked for (D15, D42). -/
theorem State.keyAnswer_of_queued {s : State} {p : Bool} {l : List Bool} (h : s.inputs.keyAnswers = p :: l) (k : Byte) :
    s.keyAnswer k = p := by
  rw [State.keyAnswer, h]

/-- With two answers queued, the query after `SKP` or `SKNP` gets the second. -/
theorem State.keyAnswer_skipIf_of_queued {s : State} {p q : Bool} {l : List Bool}
    (h : s.inputs.keyAnswers = p :: q :: l) (skips : Bool) (k : Byte) :
    (s.takeKeyAnswer.skipIf skips).keyAnswer k = q :=
  State.keyAnswer_of_queued (by rw [State.skipIf_inputs, State.takeKeyAnswer_inputs, h]; rfl) k

/-- Settles O50: both take the first queued answer, so two answers queued in a row are given in a row. -/
theorem keySkips : Obligations.KeySkips := by
  intro x s
  refine ⟨exec_of_takeKeyAnswer_skipIf rfl rfl, exec_of_takeKeyAnswer_skipIf rfl ?_, fun p q => ?_⟩
  · cases s.keyAnswer (s.reg x) <;> rfl
  · exact ⟨{ s.inputs with keyAnswers := [p, q] }, _, _, State.keyAnswer_of_queued rfl _,
      rfl, State.keyAnswer_skipIf_of_queued rfl _ _, rfl, State.keyAnswer_skipIf_of_queued rfl _ _⟩

/-! ### The key-wait (R355, R356) -/

/-- Settles O51: `LD Vx,K` is one update of the latch. -/
theorem keyWaitIsLatched : Obligations.KeyWaitIsLatched := fun _ _ => rfl

/-- A reported key goes to the latched register, zero-extended, and to no other (D43). -/
theorem claimsReg_resolveKeyWait {s : State} (hp : s.keyPoll.pressed = true) (r : Nibble) :
    Claims.reg (resolveKeyWait s) r =
      if r = s.waitingForKeyRegister then s.keyPoll.key.toNat else Claims.reg s r := by
  rw [resolveKeyWait, if_pos hp, ← BitVec.toNat_setWidth_of_le (b := s.keyPoll.key) (show 4 ≤ 8 by decide)]
  exact claimsReg_setReg ..

theorem resolveKeyWait_of_not_pressed {s : State} (hp : s.keyPoll.pressed = false) : resolveKeyWait s = s.takeKeyPoll := by
  simp [resolveKeyWait, hp]

/-- Settles O12: the step is `resolveKeyWait`, and the poll's answer decides what it writes. -/
theorem keyWaitStepPollsTheKeyboard : Obligations.KeyWaitStepPollsTheKeyboard := by
  intro s hw
  refine ⟨resolveKeyWait s, step_of_waiting hw, fun hp => ?_, fun hp => ?_, resolveKeyWait_eq s⟩
  · exact ⟨by rw [resolveKeyWait_waitingForKey hw, hp]; rfl, claimsReg_resolveKeyWait hp⟩
  · rw [resolveKeyWait_of_not_pressed hp]
    exact ⟨hw, rfl⟩

end Sys2Proof.Machine
end

section
/-! Display operations: the line primitives, clear and scroll, the resolution switch and the draw
(44_display_engine.md R402 to R421; 45_display_ops.md R450 to R458). -/

namespace Sys2Proof.Machine

open Sys2Proof.Claims (Selected RowHits collisions spriteData spriteSet pixel origin)

/-! ### The primitives on the selected planes (R401, R410 to R418) -/

theorem selected_iff {s : State} {p : Nat} : Selected s p ↔ s.selected p = true := by
  simp [Selected, State.selected]

theorem plane_mapSelected_of_selected {s : State} {p : Nat} (hp : p < s.planes.length) (hsel : Selected s p)
    (f : Plane → Plane) : (s.mapSelected f).plane p = f (s.plane p) := by
  rw [State.plane_mapSelected s f p hp, if_pos (selected_iff.1 hsel)]

theorem plane_mapSelected_of_not_selected {s : State} {p : Nat} (hp : p < s.planes.length) (hsel : ¬ Selected s p)
    (f : Plane → Plane) : (s.mapSelected f).plane p = s.plane p := by
  rw [State.plane_mapSelected s f p hp, if_neg (mt selected_iff.2 hsel)]

/-- A primitive leaves the resolution, so its pixels stand where the plane's cells are. -/
theorem pixel_mapSelected {s : State} {p : Nat} (hp : p < s.planes.length) (hsel : Selected s p) (f : Plane → Plane)
    (X Y : Nat) : pixel (s.mapSelected f) p X Y = Plane.cell (f (s.plane p)) (Y * s.width + X) :=
  congrArg (Plane.cell · (Y * s.width + X)) (plane_mapSelected_of_selected hp hsel f)

/-- An operation that applies one primitive to the selected planes: what the primitive gives on each of them (`Q`) is all that
remains to show. -/
theorem exec_of_mapSelected {i : Instr} {s : State} {f : Plane → Plane} {Q : Nat → State → Prop}
    (h : exec i s = .next (s.mapSelected f)) (hQ : ∀ p, p < s.planes.length → Selected s p → Q p (s.mapSelected f)) :
    ∃ t, exec i s = .next t ∧ t = { s with planes := t.planes } ∧ t.planes.length = s.planes.length ∧
      ∀ p, p < s.planes.length → (Selected s p → Q p t) ∧ (¬ Selected s p → t.plane p = s.plane p) :=
  ⟨s.mapSelected f, h, rfl, s.mapSelected_length f,
    fun p hp => ⟨hQ p hp, fun hsel => plane_mapSelected_of_not_selected hp hsel f⟩⟩

/-- Settles O54: `CLS` puts the blank plane in place of each selected one. -/
theorem clsClearsTheSelectedPlanes : Obligations.ClsClearsTheSelectedPlanes := fun _ =>
  exec_of_mapSelected rfl fun _ hp hsel i => by
    rw [plane_mapSelected_of_selected hp hsel]
    exact Plane.cell_zero i

/-- Settles O55: each line primitive at a pixel of one plane. -/
theorem linePrimitivesCopyAndClear : Obligations.LinePrimitivesCopyAndClear := by
  intro s src dst p X Y hp hsel hX hY
  have hpixel := fun f => pixel_mapSelected hp hsel f X Y
  exact ⟨fun hsrc hdst => (hpixel _).trans (Plane.pixel_copyRow _ s.cells_le hdst hsrc hX),
    fun hsrc hdst => (hpixel _).trans (Plane.pixel_copyColumn _ s.cells_le hdst hsrc hX hY),
    fun _ => (hpixel _).trans (Plane.pixel_clearRow _ hX),
    fun hdst => (hpixel _).trans (Plane.pixel_clearColumn _ hdst hX hY)⟩

/-- Every count of rows that an operand can name fits the screen. -/
theorem toNat_le_height (n : Nibble) (s : State) : n.toNat ≤ s.height := by
  have hn := n.isLt
  unfold State.height
  split <;> omega

/-- Settles O56: both scrolls at a pixel of one plane. -/
theorem verticalScrollsMoveByRows : Obligations.VerticalScrollsMoveByRows := by
  intro n s
  have hn := toNat_le_height n s
  exact ⟨exec_of_mapSelected rfl fun _ hp hsel X Y hX hY =>
      (pixel_mapSelected hp hsel _ X Y).trans (Plane.pixel_scrollDown _ s.cells_le hn hX hY),
    exec_of_mapSelected rfl fun _ hp hsel X Y hX hY =>
      (pixel_mapSelected hp hsel _ X Y).trans (Plane.pixel_scrollUp _ s.cells_le hn hX hY)⟩

/-- Settles O57: both scrolls at a pixel of one plane. -/
theorem horizontalScrollsMoveByFour : Obligations.HorizontalScrollsMoveByFour := fun s =>
  ⟨exec_of_mapSelected rfl fun _ hp hsel X Y hX hY =>
      (pixel_mapSelected hp hsel _ X Y).trans (Plane.pixel_scrollRight4 _ s.cells_le s.four_le_width hX hY),
    exec_of_mapSelected rfl fun _ hp hsel X Y hX hY =>
      (pixel_mapSelected hp hsel _ X Y).trans (Plane.pixel_scrollLeft4 _ s.cells_le s.four_le_width hX hY)⟩

/-! ### The resolution switch (R419) -/

theorem length_planes_setResolution (s : State) (hi : Bool) : (s.setResolution hi).planes.length = s.planes.length :=
  List.length_map ..

/-- Every plane, the ones that do not exist included, keeps the cells that both screens have. -/
theorem cell_plane_setResolution (s : State) (hi : Bool) (p i : Nat) :
    Plane.cell ((s.setResolution hi).plane p) i =
      (Plane.cell (s.plane p) i &&
        decide (i < min (s.height * s.width) ((s.setResolution hi).height * (s.setResolution hi).width))) := by
  rw [State.plane, State.planes_setResolution, State.plane, ← Plane.cell_keepPrefix]
  obtain hp | hp := Nat.lt_or_ge p s.planes.length
  · simp [List.getD, hp]
  · simp [List.getD, hp]

theorem State.cells_eq (s : State) : s.height * s.width = if s.highResolution then 8192 else 2048 := by
  unfold State.height State.width
  split <;> rfl

/-- Settles O58: the common prefix is the smaller of the two screens. -/
theorem resolutionSwitchKeepsThePrefix : Obligations.ResolutionSwitchKeepsThePrefix := by
  intro s
  refine ⟨⟨s.setResolution false, rfl, rfl, rfl, length_planes_setResolution s _, fun p i => ?_, rfl⟩,
    ⟨s.setResolution true, rfl, rfl, rfl, length_planes_setResolution s _, fun p i => ?_, rfl⟩⟩
  · have hnew : (s.setResolution false).height * (s.setResolution false).width = 2048 := State.cells_eq _
    have hold : 2048 ≤ s.height * s.width := by rw [s.cells_eq]; split <;> decide
    rw [cell_plane_setResolution, hnew, Nat.min_eq_right hold]
  · have hnew : (s.setResolution true).height * (s.setResolution true).width = 8192 := State.cells_eq _
    rw [cell_plane_setResolution, hnew, Nat.min_eq_left s.cells_le, s.cells_eq]

/-! ### The draw (R402 to R409) -/

section Draw

variable {s : State} (hlen : s.planes.length = numPlanes s.config) (a dx dy width height : Nat)
include hlen

theorem length_planes_draw : (draw s a dx dy width height).planes.length = s.planes.length :=
  (draw_loop s a dx dy width height _ hlen.ge).1

theorem getD_planes_draw (p : Nat) :
    (draw s a dx dy width height).planes.getD p 0 =
      if s.selected p then (drawPlane s (planeData s a width height p) dx dy width height (s.plane p)).plane
      else s.plane p := by
  have hnum : (p < numPlanes s.config ∧ s.selected p = true) ↔ s.selected p = true :=
    ⟨And.right, fun h => ⟨(selected_iff.2 h).1, h⟩⟩
  exact ((draw_loop s a dx dy width height _ hlen.ge).2.2.1 p).trans (if_congr hnum rfl rfl)

open Classical in
/-- The count of a draw, in the words of any predicate `N` that says which sprite rows hit (R402, R405). -/
theorem count_draw {N : Nat → Nat → Prop} [∀ p, Decidable (Selected s p)] [∀ p r, Decidable (N p r)]
    (hN : ∀ p r, Selected s p → r < height → (N p r ↔ ∃ c, c < width ∧
      hits s (planeData s a width height p) (drawOrigin s.config dx s.width) (drawOrigin s.config dy s.height) width r c
        (s.plane p))) :
    (draw s a dx dy width height).count =
      ((List.range (numPlanes s.config)).map fun p =>
        if Selected s p then (List.range height).countP fun r => decide (N p r) else 0).sum := by
  refine ((draw_loop s a dx dy width height _ hlen.ge).2.2.2).trans (congrArg List.sum (List.map_congr_left fun p _ => ?_))
  by_cases hsel : Selected s p
  · rw [if_pos hsel, if_pos (selected_iff.1 hsel)]
    have hrows := (drawPlane_spec s (planeData s a width height p) dx dy width height (s.plane p) _ _ rfl rfl).2 _
      fun _ => decide_eq_true_iff
    exact hrows.trans (List.countP_congr fun r hr => by
      rw [decide_eq_true_iff, decide_eq_true_iff, hN p r hsel (List.mem_range.1 hr)])
  · rw [if_neg hsel, if_neg (mt selected_iff.2 hsel)]

open Classical in
theorem count_draw_eq_collisions :
    (draw s a dx dy width height).count =
      collisions s a (origin s dx s.width) (origin s dy s.height) width height :=
  count_draw hlen a dx dy width height fun _ _ _ _ => Iff.rfl

end Draw

/-- A plane's count is at most the sprite's rows, so that the count of two planes of 16 rows fits a byte (R408). -/
theorem collisions_le (s : State) (a dx dy width height : Nat) :
    collisions s a dx dy width height ≤ numPlanes s.config * height := by
  unfold collisions
  refine (List.sum_le_card_nsmul _ height (List.forall_mem_map.2 fun p _ => ?_)).trans_eq ?_
  · split
    · exact List.countP_le_length.trans_eq List.length_range
    · exact Nat.zero_le _
  · rw [List.length_map, List.length_range, smul_eq_mul]

/-- The sprite has at most one bit for a pixel of the screen (R403, R407). -/
theorem exists_puts_iff {s : State} {a ox oy width height X Y : Nat} (hX : X < s.width) (hY : Y < s.height) :
    (∃ r, r < height ∧ ∃ c, c < width ∧ puts s a ox oy width r c (Y * s.width + X)) ↔
      ox ≤ X ∧ X < ox + width ∧ oy ≤ Y ∧ Y < oy + height ∧ spriteSet s a width (Y - oy) (X - ox) := by
  constructor
  · rintro ⟨r, hr, c, hc, hbit, -, hXc, hcell⟩
    obtain ⟨rfl, rfl⟩ := cell_index_inj hX hXc hcell
    rw [Nat.add_sub_cancel_left, Nat.add_sub_cancel_left]
    exact ⟨by omega, by omega, by omega, by omega, hbit⟩
  · rintro ⟨hox, hXw, hoy, hYh, hbit⟩
    refine ⟨Y - oy, by omega, X - ox, by omega, hbit, by omega, by omega, ?_⟩
    rw [Nat.add_sub_cancel' hox, Nat.add_sub_cancel' hoy]

theorem numPlanes_le_two (c : Config) : numPlanes c ≤ 2 := by
  unfold numPlanes
  split <;> decide

/-- The draw and the write of `VF` after it, for a sprite of at most 16 rows. -/
theorem spriteDrawn_drawSprite (x y : Nibble) (width : Nat) {height : Nat} {s : State}
    (hlen : s.planes.length = numPlanes s.config) (hheight : height ≤ 16) :
    Claims.SpriteDrawn s (drawSprite x y width height s) x y width height := by
  refine ⟨fun p _ hsel X Y hX hY => ?_, fun p _ hsel => ?_, fun r => ?_, length_planes_draw hlen .., drawSprite_eq ..⟩
  · rw [← exists_puts_iff hX hY]
    have hplane := (getD_planes_draw hlen s.I.toNat (s.reg x).toNat (s.reg y).toNat width height p).trans
      (if_pos (selected_iff.1 hsel))
    have hcell := congrArg (Plane.cell · (Y * s.width + X)) hplane
    exact (Bool.eq_iff_iff.1 hcell).trans ((drawPlane_spec s _ _ _ width height _ _ _ rfl rfl).1 _)
  · exact (getD_planes_draw hlen ..).trans (if_neg (mt selected_iff.2 hsel))
  · have hfits : numPlanes s.config * height ≤ 2 * 16 := Nat.mul_le_mul (numPlanes_le_two _) hheight
    have hcount := (collisions_le s s.I.toNat (origin s (s.reg x).toNat s.width) (origin s (s.reg y).toNat s.height) width
      height).trans hfits
    rw [drawSprite, claimsReg_setReg, count_draw_eq_collisions hlen, BitVec.toNat_ofNat, Nat.mod_eq_of_lt (by omega)]
    rfl

/-- Settles O52: `DRW` has at most 15 rows and `DRW16` has 16. -/
theorem drawIsPixelwiseXorWithRowCount : Obligations.DrawIsPixelwiseXorWithRowCount := fun x y n _ hlen =>
  ⟨⟨_, rfl, spriteDrawn_drawSprite x y 8 hlen (Nat.le_of_lt n.isLt)⟩,
    ⟨_, rfl, spriteDrawn_drawSprite x y 16 hlen (Nat.le_refl 16)⟩⟩

/-! ### Two draws (R421) -/

/-- The XOR law on one plane. -/
theorem drawPlane_drawPlane (s : State) (a dx dy width height : Nat) (pl : Plane) :
    (drawPlane s a dx dy width height (drawPlane s a dx dy width height pl).plane).plane = pl := by
  refine Plane.ext fun i => Bool.eq_iff_iff.2 ?_
  rw [(drawPlane_spec s a dx dy width height _ _ _ rfl rfl).1, (drawPlane_spec s a dx dy width height pl _ _ rfl rfl).1]
  generalize (∃ r, r < height ∧ _) = drawn
  tauto

/-- After a draw a sprite bit hits where its pixel was dark before the draw, or at the bottom edge (R406, R421). -/
theorem hits_drawPlane_iff {s : State} {a dx dy width height r c : Nat} {pl : Plane} (hr : r < height) (hc : c < width) :
    hits s a (drawOrigin s.config dx s.width) (drawOrigin s.config dy s.height) width r c
        (drawPlane s a dx dy width height pl).plane ↔
      spriteSet s a width r c ∧
        (s.height ≤ origin s dy s.height + r ∨ (origin s dy s.height + r < s.height ∧ origin s dx s.width + c < s.width ∧
          Plane.cell pl ((origin s dy s.height + r) * s.width + (origin s dx s.width + c)) = false)) := by
  refine and_congr_right fun hbit => or_congr_right (and_congr_right fun hY => and_congr_right fun hX => ?_)
  rw [(drawPlane_spec s a dx dy width height pl _ _ rfl rfl).1]
  have hput : ∃ r', r' < height ∧ ∃ c', c' < width ∧
      puts s a (drawOrigin s.config dx s.width) (drawOrigin s.config dy s.height) width r' c'
        ((drawOrigin s.config dy s.height + r) * s.width + (drawOrigin s.config dx s.width + c)) :=
    ⟨r, hr, c, hc, hbit, hY, hX, rfl⟩
  rw [iff_true_right hput, Bool.not_eq_true]
  rfl

theorem planes_ext {l m : List Plane} (hlen : l.length = m.length) (h : ∀ p, l.getD p 0 = m.getD p 0) : l = m :=
  List.ext_getElem hlen fun p hl hm => by
    rw [← List.getD_eq_getElem l 0 hl, ← List.getD_eq_getElem m 0 hm, h p]

/-- Settles O53: the draw reads the planes only as its targets, so the second draw is the first one on the planes that it left. -/
theorem drawTwiceRestoresThePlanes : Obligations.DrawTwiceRestoresThePlanes := by
  intro s a dx dy width height hlen first second X Y
  classical
  have hlen' : first.planes.length = numPlanes s.config := (length_planes_draw hlen ..).trans hlen
  have hfirst := getD_planes_draw hlen a dx dy width height
  have hsecond := getD_planes_draw (s := { s with planes := first.planes }) hlen' a dx dy width height
  refine ⟨planes_ext ((length_planes_draw hlen' ..).trans (hlen'.trans hlen.symm)) fun p => ?_,
    count_draw hlen' a dx dy width height fun p r hsel hr => ?_⟩
  · refine (hsecond p).trans ?_
    by_cases hsel : s.selected p = true
    · have hredrawn := congrArg (fun pl => (drawPlane s (planeData s a width height p) dx dy width height pl).plane)
        ((hfirst p).trans (if_pos hsel))
      exact (if_pos hsel).trans (hredrawn.trans (drawPlane_drawPlane ..))
    · exact (if_neg hsel).trans ((hfirst p).trans (if_neg hsel))
  · have hplane : State.plane { s with planes := first.planes } p =
        (drawPlane s (planeData s a width height p) dx dy width height (s.plane p)).plane :=
      (hfirst p).trans (if_pos (selected_iff.1 hsel))
    rw [hplane]
    exact exists_congr fun c => and_congr_right fun hc => (hits_drawPlane_iff hr hc).symm

end Sys2Proof.Machine
end

section
/-! Plane selection (45_display_ops.md R459). -/

namespace Sys2Proof.Machine

/-- The mask takes all four bits of the field, the two that name no plane among them (D30). -/
theorem exec_plane (n : Nibble) (s : State) : exec (.plane n) s = .next { s with planeMask := n } := rfl

/-- Settles O60: `PLANE` is one update of the mask, and its frame names no other field. -/
theorem planeSelects : Obligations.PlaneSelects := fun n s =>
  ⟨_, exec_plane n s, rfl, exec_frame (exec_plane n s)⟩

end Sys2Proof.Machine
end

section
/-! When an operation and when a step end in a fault, and in which one (60_exceptions.md R500 to R506). -/

namespace Sys2Proof.Machine

/-! ### Operations (R504, R505) -/

/-- A flag-register access faults exactly if its index is above 7 (R504). -/
theorem flagIndexCheck_eq_fault_iff {x : Nibble} {w pc : Word} {t : State} {r : Fault} :
    (if x.toNat > 7 then Host.Outcome.fault (.flagRegisterIndex w pc) else .next t : Result) = .fault r ↔
      7 < x.toNat ∧ r = .flagRegisterIndex w pc := by
  split <;> simp [*, eq_comm]

/-- The only fault of an operation is that of a flag-register index above 7 (R504, R505). -/
theorem exec_eq_fault_iff {i : Instr} {s : State} {r : Fault} :
    exec i s = .fault r ↔
      r = .flagRegisterIndex (encode i) s.fetchPc ∧ ∃ x : Nibble, 7 < x.toNat ∧ (i = .ldRVx x ∨ i = .ldVxR x) := by
  cases i with
  | ldRVx x => rw [exec_ldRVx, flagIndexCheck_eq_fault_iff]; simp [and_comm]
  | ldVxR x => rw [exec_ldVxR, flagIndexCheck_eq_fault_iff]; simp [and_comm]
  | _ => exact iff_of_false (fun h => nomatch h) (by simp)

/-- Settles O11: no operation is refused, and only the two excluded forms fault. -/
theorem everyInstructionCompletes : Obligations.EveryInstructionCompletes := by
  intro i s hi
  refine (exec_next_or_fault i s).resolve_right ?_
  rintro ⟨r, hr⟩
  obtain ⟨-, x, hx, hform⟩ := exec_eq_fault_iff.1 hr
  exact hform.elim (hi x hx).1 (hi x hx).2

/-! ### Steps (R500, R503, R506) -/

/-- A fetch is misaligned where `pc` is odd and may not be (R503). -/
theorem State.fetchMisaligned_eq_true_iff {s : State} :
    s.fetchMisaligned = true ↔ s.pc.toNat % 2 = 1 ∧ s.config.allowMisaligned = false := by
  rw [← Bool.not_eq_false, State.fetchMisaligned_eq_false_iff, not_or, Nat.mod_two_not_eq_zero, Bool.not_eq_true]

/-- Settles O10: the alignment check reads `pc` and the configuration, and no memory. -/
theorem misalignedFetchFaultsBeforeDecode : Obligations.MisalignedFetchFaultsBeforeDecode := fun s m hw hodd hoff =>
  step_of_misaligned (s := { s with memory := m }) hw (State.fetchMisaligned_eq_true_iff.2 ⟨hodd, hoff⟩)

/-- The fetch address, from the `pc` that the step has advanced (R114). -/
@[simp] theorem State.fetchPc_advancePc (s : State) : s.advancePc.fetchPc = s.pc := BitVec.add_sub_cancel ..

/-- A step of a decoded word faults exactly if its operation is a flag-register access beyond the flag registers (R504). -/
theorem step_eq_fault_iff_of_decoded {s : State} {i : Instr} {r : Fault} (hw : s.waitingForKey = false)
    (hm : s.fetchMisaligned = false) (hd : decode s.config.variant s.fetchWord = .ok i) :
    step s = .fault r ↔
      r = .flagRegisterIndex s.fetchWord s.pc ∧ ∃ x : Nibble, 7 < x.toNat ∧ (i = .ldRVx x ∨ i = .ldVxR x) := by
  rw [step_of_decoded hw hm hd, exec_eq_fault_iff, encode_of_decode hd, State.fetchPc_advancePc]

/-- The `pc` is advanced at the raise of every fault but that of a misaligned fetch (R500, last column; D7). -/
theorem stateAtRaise_of_step_fault {s : State} {r : Fault} (h : step s = .fault r) :
    stateAtRaise r s = if s.fetchMisaligned = true then s else s.advancePc := by
  obtain ⟨-, hs⟩ | ⟨-, hm, hs⟩ | ⟨i, hw, hm, hd, -⟩ | ⟨e, -, hm, -, hs⟩ := step_cases s
  · cases hs.symm.trans h
  · cases hs.symm.trans h
    exact (if_pos hm).symm
  · obtain ⟨rfl, -⟩ := (step_eq_fault_iff_of_decoded hw hm hd).1 h
    rw [hm]; rfl
  · cases hs.symm.trans h
    rw [hm]; cases e <;> rfl

/-- The word fetched is the two bytes at `pc`, the high byte first (R112). -/
theorem State.fetchWord_eq (s : State) : s.fetchWord = s.readByte s.pc.toNat ++ s.readByte (s.pc.toNat + 1) := rfl

/-- Settles O9: `odd` is the alignment check and `w` the word fetched, and each of the four cases of a step says whether it
faults, and how. -/
theorem stepFaultsExactlyAsListed : Obligations.StepFaultsExactlyAsListed := by
  intro s r
  simp only [← State.fetchMisaligned_eq_true_iff, ← State.fetchWord_eq]
  refine ⟨?_, stateAtRaise_of_step_fault⟩
  obtain ⟨hw, h⟩ | ⟨hw, hm, h⟩ | ⟨i, hw, hm, hd, -⟩ | ⟨e, hw, hm, hd, h⟩ := step_cases s
  · simp [h, hw]
  · simp [h, hw, hm, eq_comm]
  · simp [step_eq_fault_iff_of_decoded hw hm hd, hw, hm, hd]
  · cases e <;> simp [h, hw, hm, hd, decodeFault, eq_comm]

end Sys2Proof.Machine
end

section
/-! The ROM loader (70_reset_and_hazards.md R555, R556): when it loads, and every byte of the space afterwards. -/

namespace Sys2Proof.Machine

/-- The header rule, in the terms of R556 (D52). -/
theorem romPayload_eq (rom : List Byte) :
    romPayload rom = if rom.take 8 = [0x48, 0x50, 0x48, 0x50, 0x34, 0x38, 0x2D, 0x41] then rom.drop 13 else rom := by
  have hsig : romSignature.isPrefixOf rom = true ↔ rom.take 8 = romSignature := by
    rw [List.isPrefixOf_iff_prefix, List.prefix_iff_eq_take, eq_comm]; rfl
  exact if_congr hsig rfl rfl

/-- A load answers a state exactly if the payload fits (R555; log 23). -/
theorem exists_loadRom_eq_some_iff {rom : List Byte} {s : State} :
    (∃ t, loadRom rom s = some t) ↔ loadAddress + (romPayload rom).length ≤ memorySize s.config :=
  ⟨fun ⟨_, h⟩ => (loadRom_cases h).1, fun hfit => ⟨_, if_pos hfit⟩⟩

/-- The payload's bytes are read back from `LOAD_ADDRESS` on: they fit, so no two of them share an address (R555). -/
theorem readByte_loadRom {rom : List Byte} {s t : State} (h : loadRom rom s = some t) {k : Nat}
    (hk : k < (romPayload rom).length) : t.readByte (loadAddress + k) = (romPayload rom)[k] := by
  obtain ⟨hfit, rfl⟩ := loadRom_cases h
  have hlast (j : Nat) (hj : j < (romPayload rom).length) (hkj : k < j) :
      addr s.config (loadAddress + k) ≠ addr s.config (loadAddress + j) := by
    rw [addr_eq_self (by omega), addr_eq_self (by omega)]; omega
  obtain ⟨-, -, hwritten⟩ := readByte_forUpTo_write (romPayload rom).length (loadAddress + ·)
    ((romPayload rom).getD · 0) s (loadAddress + k)
  exact (hwritten k hk rfl hlast).trans (List.getD_eq_getElem _ _ hk)

/-- A load leaves every byte of the space below and above the payload (R555). -/
theorem readByte_loadRom_of_outside {rom : List Byte} {s t : State} (h : loadRom rom s = some t) {a : Nat}
    (ha : a < memorySize s.config) (hout : a < loadAddress ∨ loadAddress + (romPayload rom).length ≤ a) :
    t.readByte a = s.readByte a := by
  obtain ⟨hfit, rfl⟩ := loadRom_cases h
  refine (readByte_forUpTo_write _ (loadAddress + ·) _ s a).2.1 fun k hk => ?_
  rw [addr_eq_self ha, addr_eq_self (by omega)]
  omega

/-- Settles O21: the payload is the model's, and a ROM that fits is loaded by one loop of byte writes. -/
theorem loaderPlacesThePayload : Obligations.LoaderPlacesThePayload := by
  intro rom s
  simp only [← romPayload_eq]
  intro hfit
  obtain ⟨t, h⟩ := exists_loadRom_eq_some_iff.2 hfit
  refine ⟨t, h, fun k hk => ?_, fun a ha hout => readByte_loadRom_of_outside h ha hout, loadRom_eq h⟩
  rw [List.getElem?_eq_getElem hk]
  exact congrArg some (readByte_loadRom h hk)

end Sys2Proof.Machine
end
